-- ==== Sys2Proof/Word.lean ====
section
/-! DEFINITION. The bytes, words, blocks and key schedules of the core, and their bitwise exclusive or.

A byte is eight bits, bit 7 the most significant (00_scope.md R12). A word is four bytes, one column of
the cipher state or a quarter of a round key (41_key_expansion.md R122). A block is sixteen bytes, byte
`i` being byte `i mod 4` of word `i div 4` (20_memory.md R44, 40_field_and_tables.md R99). A schedule is
the eleven round keys `RK[0..10]` (10_state.md R21). -/

namespace Sys2Proof

/-- A byte, 0 to 255 (00_scope.md R11). -/
abbrev Byte := BitVec 8

/-- Four bytes `(b0, b1, b2, b3)` (41_key_expansion.md R122). -/
structure Word where
  b0 : Byte
  b1 : Byte
  b2 : Byte
  b3 : Byte
deriving DecidableEq, Repr, Inhabited

/-- Sixteen bytes (00_scope.md R11), as the four columns of 40_field_and_tables.md R99: `w0` holds bytes
0 to 3, `w1` bytes 4 to 7, `w2` bytes 8 to 11, `w3` bytes 12 to 15. -/
structure Block where
  w0 : Word
  w1 : Word
  w2 : Word
  w3 : Word
deriving DecidableEq, Repr, Inhabited

/-- The eleven round keys of 10_state.md R21. -/
structure Schedule where
  k0 : Block
  k1 : Block
  k2 : Block
  k3 : Block
  k4 : Block
  k5 : Block
  k6 : Block
  k7 : Block
  k8 : Block
  k9 : Block
  k10 : Block
deriving DecidableEq, Repr, Inhabited

/-- Bytewise exclusive or of two words (00_scope.md R13). -/
def Word.xor (v w : Word) : Word :=
  ⟨v.b0 ^^^ w.b0, v.b1 ^^^ w.b1, v.b2 ^^^ w.b2, v.b3 ^^^ w.b3⟩

/-- Bytewise exclusive or of two blocks (00_scope.md R13). -/
def Block.xor (a b : Block) : Block :=
  ⟨a.w0.xor b.w0, a.w1.xor b.w1, a.w2.xor b.w2, a.w3.xor b.w3⟩

/-- The word of four zero bytes. -/
def Word.zero : Word := ⟨0, 0, 0, 0⟩

/-- The block of sixteen zero bytes. -/
def Block.zero : Block := ⟨.zero, .zero, .zero, .zero⟩

/-- Eleven round keys of zero bytes. -/
def Schedule.zero : Schedule :=
  ⟨.zero, .zero, .zero, .zero, .zero, .zero, .zero, .zero, .zero, .zero, .zero⟩

end Sys2Proof
end

