-- ==== Sys2Proof/Config.lean ====
section
/-! DEFINITION. What an implementation fixes (00_scope.md R8) and the free values: the constants below
without a body stand for what the spec leaves unspecified, and nothing can be proved of their values. -/

namespace Sys2Proof

/-- The build-time parameters of 00_scope.md R8. A machine carries its own in its state, where no
command and no reset changes them (10_state.md R31, R34). -/
structure Config where
  /-- STRICT_UNPAD (43_padding.md R156): `unpad` checks all `n` trailing bytes. -/
  strictUnpad : Bool
  /-- MAX_DATA_LEN (30_encoding.md R69): the longest data operand of formats D and C. -/
  maxDataLen : Nat
  /-- N_INST (60_exceptions.md R212): how many instances the system has. -/
  nInst : Nat
deriving DecidableEq, Repr

/-- The values 00_scope.md R8 allows. -/
abbrev Config.wf (c : Config) : Prop := c.maxDataLen ≤ 4294967279 ∧ 1 ≤ c.nInst

/-- The values 00_scope.md R8 recommends or gives as defaults. STRICT_UNPAD is open in the spec:
DESIGN CHOICE, log 2; unsafe for a claim about runs from `State.reset` only. -/
def Config.recommended : Config :=
  { strictUnpad := true, maxDataLen := 4294967279, nInst := 1 }

/-- KEYIN outside DERIVE_SCHEDULE (10_state.md R24: "its value is unspecified"). Log 5, safe. -/
opaque Config.freeKeyin : Nat → Block

/-- ST outside a block operation (10_state.md R25). Log 5, safe. -/
opaque Config.freeSt : Nat → Block

/-- RND outside a block operation (10_state.md R25), one of the values 0 to 10. Log 5, safe. -/
opaque Config.freeRnd : Nat → Fin 11

/-- CHAIN outside a CBC command (10_state.md R26). Log 5, safe. -/
opaque Config.freeChain : Nat → Block

/-- CTSAVE outside a CBC_DECRYPT block step (10_state.md R26). Log 5, safe. -/
opaque Config.freeCtsave : Nat → Block

/-- BLK outside a CBC or padding command (10_state.md R26), below 2^28. Log 5, safe. -/
opaque Config.freeBlk : Nat → Fin 268435456

/-- IBUF between commands (10_state.md R27). Log 5, safe. -/
opaque Config.freeIbuf : Nat → List Byte

/-- OBUF between commands (10_state.md R27). Log 5, safe. -/
opaque Config.freeObuf : Nat → List Byte

/-- RK after a reset event (70_reset_and_hazards.md R221: `RK := any`). Log 6, safe. -/
opaque Config.freeSchedule : Nat → Schedule

end Sys2Proof
end

