-- ==== Sys2Proof/Syntax.lean ====
section
/-! DEFINITION. The commands: one constructor for each row of spec/opcode_table.json, with the operands
30_encoding.md R70 gives it. -/

namespace Sys2Proof

/-- A command with its operands (30_encoding.md R70). A counted string (R64) is a byte list of any
length; a fixed block (R63) is a block. -/
inductive Instr where
  /-- 0x01 `DERIVE_SCHEDULE`, format K (R65). -/
  | deriveSchedule (key : List Byte)
  /-- 0x02 `ENCRYPT_BLOCK`, format B (R66). -/
  | encryptBlock (block : Block)
  /-- 0x03 `DECRYPT_BLOCK`, format B (R66). -/
  | decryptBlock (block : Block)
  /-- 0x04 `PAD`, format D (R67). -/
  | pad (data : List Byte)
  /-- 0x05 `UNPAD`, format D (R67). -/
  | unpad (data : List Byte)
  /-- 0x06 `CBC_ENCRYPT`, format C (R68). -/
  | cbcEncrypt (iv data : List Byte)
  /-- 0x07 `CBC_DECRYPT`, format C (R68). -/
  | cbcDecrypt (iv data : List Byte)
deriving DecidableEq, Repr

end Sys2Proof
end

