-- ==== Sys2Proof/WellFormed.lean ====
section
/-! DEFINITION. Which commands have a frame: the length limits of 30_encoding.md R64, R69 and R71. -/

namespace Sys2Proof

/-- A counted string's length fits its 32-bit length field (30_encoding.md R64: `L` is 0 to 2^32 - 1). -/
def fitsLengthField (v : List Byte) : Bool := decide (v.length < 4294967296)

/-- A data operand is within MAX_DATA_LEN (30_encoding.md R69), and its length fits the field. -/
def fitsDataLimit (c : Config) (v : List Byte) : Bool :=
  decide (v.length ≤ c.maxDataLen) && fitsLengthField v

/-- The command is a tuple that has a well-formed frame (30_encoding.md R71). A key or an IV of a
length other than 16 is well formed: that is an error of the command (R65, R68), not of the frame. -/
def Instr.wellFormed (c : Config) : Instr → Bool
  | .deriveSchedule key => fitsLengthField key
  | .encryptBlock _ => true
  | .decryptBlock _ => true
  | .pad data => fitsDataLimit c data
  | .unpad data => fitsDataLimit c data
  | .cbcEncrypt iv data => fitsLengthField iv && fitsDataLimit c data
  | .cbcDecrypt iv data => fitsLengthField iv && fitsDataLimit c data

end Sys2Proof
end

