-- ==== Sys2Proof/Decode.lean ====
section
/-! DEFINITION. Command frames to commands and back: the byte order of blocks and length fields, the
decoder (30_encoding.md R63 to R71, R74), the encoder, and the frame of a row of spec/opcode_table.json. -/

namespace Sys2Proof

/-- The sixteen bytes of a block, byte 0 first (00_scope.md R11, 20_memory.md R44). -/
def blockBytes (b : Block) : List Byte :=
  [b.w0.b0, b.w0.b1, b.w0.b2, b.w0.b3, b.w1.b0, b.w1.b1, b.w1.b2, b.w1.b3,
   b.w2.b0, b.w2.b1, b.w2.b2, b.w2.b3, b.w3.b0, b.w3.b1, b.w3.b2, b.w3.b3]

/-- The block of a byte string of exactly sixteen bytes; none for any other length (00_scope.md R11). -/
def blockOfBytes : List Byte → Option Block
  | [a0, a1, a2, a3, a4, a5, a6, a7, a8, a9, a10, a11, a12, a13, a14, a15] =>
    some ⟨⟨a0, a1, a2, a3⟩, ⟨a4, a5, a6, a7⟩, ⟨a8, a9, a10, a11⟩, ⟨a12, a13, a14, a15⟩⟩
  | _ => none

/-- `be32(n)`: four bytes, the most significant first (00_scope.md R12, 20_memory.md R43). -/
def be32 (n : Nat) : List Byte :=
  [BitVec.ofNat 8 (n / 16777216), BitVec.ofNat 8 (n / 65536), BitVec.ofNat 8 (n / 256), BitVec.ofNat 8 n]

/-- `unbe32` of four bytes, the first the most significant (00_scope.md R12). -/
def unbe32 (a b c d : Byte) : Nat :=
  16777216 * a.toNat + 65536 * b.toNat + 256 * c.toNat + d.toNat

/-- Why a frame is malformed (30_encoding.md R71, R74; 60_exceptions.md R195). The response does not
tell the reasons apart (60_exceptions.md R201). -/
inductive Malformed where
  /-- No byte at all: not a frame (60_exceptions.md R195). -/
  | emptyFrame
  /-- An opcode outside 0x01 to 0x07. -/
  | illegalOpcode
  /-- A format-B frame that is not 17 bytes long. -/
  | wrongBlockLength
  /-- Too short to hold a length field its format needs. -/
  | shortLengthField
  /-- A length field larger than the bytes that remain. -/
  | lengthOverrun
  /-- Bytes left over after the last operand. -/
  | leftoverBytes
  /-- `DLEN > MAX_DATA_LEN` (30_encoding.md R69). -/
  | dataTooLong
deriving DecidableEq, Repr

/-- A counted string (30_encoding.md R64) at the front of the bytes, with the bytes after it. -/
def takeCounted : List Byte → Except Malformed (List Byte × List Byte)
  | a :: b :: c :: d :: rest =>
    if unbe32 a b c d ≤ rest.length then
      .ok (rest.take (unbe32 a b c d), rest.drop (unbe32 a b c d))
    else .error .lengthOverrun
  | _ => .error .shortLengthField

/-- A counted string that is the last operand of its frame (30_encoding.md R63: no trailer). -/
def takeLast (body : List Byte) : Except Malformed (List Byte) :=
  match takeCounted body with
  | .error e => .error e
  | .ok (v, []) => .ok v
  | .ok (_, _ :: _) => .error .leftoverBytes

/-- The data operand of formats D and C, within MAX_DATA_LEN (30_encoding.md R67 to R69). -/
def takeData (c : Config) (body : List Byte) : Except Malformed (List Byte) :=
  match takeLast body with
  | .error e => .error e
  | .ok v => if v.length ≤ c.maxDataLen then .ok v else .error .dataTooLong

/-- The two operands of format C (30_encoding.md R68). -/
def takeIvData (c : Config) (body : List Byte) : Except Malformed (List Byte × List Byte) :=
  match takeCounted body with
  | .error e => .error e
  | .ok (iv, rest) =>
    match takeData c rest with
    | .error e => .error e
    | .ok data => .ok (iv, data)

/-- The operand of format B (30_encoding.md R66). -/
def takeBlock (body : List Byte) : Except Malformed Block :=
  match blockOfBytes body with
  | some b => .ok b
  | none => .error .wrongBlockLength

/-- The command a frame encodes, or why the frame is malformed (30_encoding.md R70, R71). The opcode is
byte 0, matched in full. -/
def decode (c : Config) : List Byte → Except Malformed Instr
  | [] => .error .emptyFrame
  | opc :: body =>
    if opc = 0x01#8 then (takeLast body).map .deriveSchedule
    else if opc = 0x02#8 then (takeBlock body).map .encryptBlock
    else if opc = 0x03#8 then (takeBlock body).map .decryptBlock
    else if opc = 0x04#8 then (takeData c body).map .pad
    else if opc = 0x05#8 then (takeData c body).map .unpad
    else if opc = 0x06#8 then (takeIvData c body).map fun p => .cbcEncrypt p.1 p.2
    else if opc = 0x07#8 then (takeIvData c body).map fun p => .cbcDecrypt p.1 p.2
    else .error .illegalOpcode

/-- A counted string as it stands in a frame (30_encoding.md R64). -/
def countedBytes (v : List Byte) : List Byte := be32 v.length ++ v

/-- The frame of a command (30_encoding.md R65 to R68). -/
def encode : Instr → List Byte
  | .deriveSchedule key => 0x01#8 :: countedBytes key
  | .encryptBlock block => 0x02#8 :: blockBytes block
  | .decryptBlock block => 0x03#8 :: blockBytes block
  | .pad data => 0x04#8 :: countedBytes data
  | .unpad data => 0x05#8 :: countedBytes data
  | .cbcEncrypt iv data => 0x06#8 :: (countedBytes iv ++ countedBytes data)
  | .cbcDecrypt iv data => 0x07#8 :: (countedBytes iv ++ countedBytes data)

/-- The first `k` bytes of a number, bit 0 of the number being bit 0 of byte 0 (the numbering of
spec/opcode_table.json: the second byte is bits 15 to 8). -/
def bytesOfBits : Nat → Nat → List Byte
  | 0, _ => []
  | k + 1, w => BitVec.ofNat 8 w :: bytesOfBits k (w / 256)

/-- Byte `k` of a frame whose bytes beyond those given are zero. -/
def frameByte (f : List Byte) (k : Nat) : Byte := f.getD k 0

/-- The length field at offset `k` of a frame whose bytes beyond those given are zero. -/
def lengthFieldAt (f : List Byte) (k : Nat) : Nat :=
  unbe32 (frameByte f k) (frameByte f (k + 1)) (frameByte f (k + 2)) (frameByte f (k + 3))

/-- The frame length that the opcode and the length fields of these leading bytes ask for
(30_encoding.md R65 to R68); one byte where the opcode is illegal. -/
def frameLength (f : List Byte) : Nat :=
  if frameByte f 0 = 0x01#8 ∨ frameByte f 0 = 0x04#8 ∨ frameByte f 0 = 0x05#8 then
    5 + lengthFieldAt f 1
  else if frameByte f 0 = 0x02#8 ∨ frameByte f 0 = 0x03#8 then 17
  else if frameByte f 0 = 0x06#8 ∨ frameByte f 0 = 0x07#8 then
    9 + lengthFieldAt f 1 + lengthFieldAt f (5 + lengthFieldAt f 1)
  else 1

/-- The frame whose leading bits are `w` and whose further bytes, as many as its opcode and length
fields ask for, are zero (log 14). -/
def tableFrame (nbits w : Nat) : List Byte :=
  bytesOfBits (nbits / 8) w ++
    List.replicate (frameLength (bytesOfBits (nbits / 8) w) - nbits / 8) 0

/-- The command the decoder reads from a row of the opcode table: its bits, then zeros. -/
def decodeTableWord (nbits w : Nat) : Option Instr :=
  (decode Config.recommended (tableFrame nbits w)).toOption

end Sys2Proof
end

