-- ==== Sys2Proof/Machine/Rounds.lean ====
section
/-! DEFINITION. The cipher state and the round primitives (40_field_and_tables.md R99 to R106), in the
flat form `s[r + 4c] = ST[r][c]` that section 3 of that file allows. -/

namespace Sys2Proof.Machine

open Sys2Proof

/-- Byte `i` of a block, `i` in 0 to 15 (00_scope.md R11). -/
def blockByte (b : Block) : Nat → Byte
  | 0 => b.w0.b0
  | 1 => b.w0.b1
  | 2 => b.w0.b2
  | 3 => b.w0.b3
  | 4 => b.w1.b0
  | 5 => b.w1.b1
  | 6 => b.w1.b2
  | 7 => b.w1.b3
  | 8 => b.w2.b0
  | 9 => b.w2.b1
  | 10 => b.w2.b2
  | 11 => b.w2.b3
  | 12 => b.w3.b0
  | 13 => b.w3.b1
  | 14 => b.w3.b2
  | _ => b.w3.b3

/-- The block whose byte `i` is `f i`. -/
def blockOfFn (f : Nat → Byte) : Block :=
  ⟨⟨f 0, f 1, f 2, f 3⟩, ⟨f 4, f 5, f 6, f 7⟩, ⟨f 8, f 9, f 10, f 11⟩, ⟨f 12, f 13, f 14, f 15⟩⟩

/-- `ST[r][c]`, row `r` and column `c` in 0 to 3 (10_state.md R25). -/
def stateAt (st : Block) (r c : Nat) : Byte := blockByte st (r + 4 * c)

/-- The state whose entry at row `r`, column `c` is `f r c`. -/
def stateOfFn (f : Nat → Nat → Byte) : Block := blockOfFn fun i => f (i % 4) (i / 4)

/-- `ST[r][c] <- in[r + 4c]` (R99). -/
def loadState (input : Block) : Block := stateOfFn fun r c => blockByte input (r + 4 * c)

/-- `out[r + 4c] <- ST[r][c]` (R99). -/
def unloadState (st : Block) : Block := blockOfFn fun i => stateAt st (i % 4) (i / 4)

/-- `AddRoundKey` (R100): byte `i` of the state with byte `i` of the round key. -/
def addRoundKey (st k : Block) : Block := st.xor k

/-- A function on every byte of a state. -/
def mapBytes (f : Byte → Byte) (st : Block) : Block := blockOfFn fun i => f (blockByte st i)

/-- `SubBytes` (R101). -/
def subBytes (st : Block) : Block := mapBytes sbox st

/-- `ShiftRows` (R102): row `r` is rotated left by `r` positions. -/
def shiftRows (st : Block) : Block := stateOfFn fun r c => stateAt st r ((c + r) % 4)

/-- One column of `MixColumns` (R103). -/
def mixColumn (a : Word) : Word :=
  ⟨gmul 0x02#8 a.b0 ^^^ gmul 0x03#8 a.b1 ^^^ a.b2 ^^^ a.b3,
   a.b0 ^^^ gmul 0x02#8 a.b1 ^^^ gmul 0x03#8 a.b2 ^^^ a.b3,
   a.b0 ^^^ a.b1 ^^^ gmul 0x02#8 a.b2 ^^^ gmul 0x03#8 a.b3,
   gmul 0x03#8 a.b0 ^^^ a.b1 ^^^ a.b2 ^^^ gmul 0x02#8 a.b3⟩

/-- A function on every column of a state. -/
def mapColumns (f : Word → Word) (st : Block) : Block := ⟨f st.w0, f st.w1, f st.w2, f st.w3⟩

/-- `MixColumns` (R103). -/
def mixColumns (st : Block) : Block := mapColumns mixColumn st

/-- `InvSubBytes` (R104). -/
def invSubBytes (st : Block) : Block := mapBytes invSbox st

/-- `InvShiftRows` (R105): row `r` is rotated right by `r` positions; `(c - r) mod 4` taken in 0 to 3. -/
def invShiftRows (st : Block) : Block := stateOfFn fun r c => stateAt st r ((c + 4 - r) % 4)

/-- One column of `InvMixColumns` (R106). -/
def invMixColumn (a : Word) : Word :=
  ⟨gmul 0x0e#8 a.b0 ^^^ gmul 0x0b#8 a.b1 ^^^ gmul 0x0d#8 a.b2 ^^^ gmul 0x09#8 a.b3,
   gmul 0x09#8 a.b0 ^^^ gmul 0x0e#8 a.b1 ^^^ gmul 0x0b#8 a.b2 ^^^ gmul 0x0d#8 a.b3,
   gmul 0x0d#8 a.b0 ^^^ gmul 0x09#8 a.b1 ^^^ gmul 0x0e#8 a.b2 ^^^ gmul 0x0b#8 a.b3,
   gmul 0x0b#8 a.b0 ^^^ gmul 0x0d#8 a.b1 ^^^ gmul 0x09#8 a.b2 ^^^ gmul 0x0e#8 a.b3⟩

/-- `InvMixColumns` (R106). -/
def invMixColumns (st : Block) : Block := mapColumns invMixColumn st

end Sys2Proof.Machine
end

