-- ==== Sys2Proof/Machine/KeyExpansion.lean ====
section
/-! DEFINITION. The key expansion (41_key_expansion.md R122 to R125). -/

namespace Sys2Proof.Machine

open Sys2Proof

/-- `SubWord` (R122). -/
def subWord (w : Word) : Word := ⟨sbox w.b0, sbox w.b1, sbox w.b2, sbox w.b3⟩

/-- `RotWord`, by one byte toward index 0 (R122). -/
def rotWord (w : Word) : Word := ⟨w.b1, w.b2, w.b3, w.b0⟩

/-- `RconWord(j)` (R122): only byte 0 of the word is not zero. -/
def rconWord (j : Nat) : Word := ⟨rcon j, 0, 0, 0⟩

/-- Words `4j` to `4j+3` of R123's recurrence, which are round key `j`, from words `4j-4` to `4j-1`.
`RND = j` is the index of the round constant. -/
def nextRoundKey (j : Nat) (p : Block) : Block :=
  let w0 := p.w0.xor ((subWord (rotWord p.w3)).xor (rconWord j))
  let w1 := p.w1.xor w0
  let w2 := p.w2.xor w1
  let w3 := p.w3.xor w2
  ⟨w0, w1, w2, w3⟩

/-- Round key `j` of the expansion of a key, `j` in 0 to 10 (R123): `k_0` is the key. -/
def roundKey (key : Block) : Nat → Block
  | 0 => key
  | j + 1 => nextRoundKey (j + 1) (roundKey key j)

/-- `KeyExpansion(key)`, the eleven round keys (R123). -/
def keyExpansion (key : Block) : Schedule :=
  { k0 := roundKey key 0, k1 := roundKey key 1, k2 := roundKey key 2, k3 := roundKey key 3,
    k4 := roundKey key 4, k5 := roundKey key 5, k6 := roundKey key 6, k7 := roundKey key 7,
    k8 := roundKey key 8, k9 := roundKey key 9, k10 := roundKey key 10 }

/-- `RK[r]`, `r` in 0 to 10 (00_scope.md R14). -/
def scheduleKey (rk : Schedule) : Nat → Block
  | 0 => rk.k0
  | 1 => rk.k1
  | 2 => rk.k2
  | 3 => rk.k3
  | 4 => rk.k4
  | 5 => rk.k5
  | 6 => rk.k6
  | 7 => rk.k7
  | 8 => rk.k8
  | 9 => rk.k9
  | _ => rk.k10

/-- Word `c` of a block, `c` in 0 to 3 (41_key_expansion.md R122). -/
def blockWord (b : Block) : Nat → Word
  | 0 => b.w0
  | 1 => b.w1
  | 2 => b.w2
  | _ => b.w3

/-- Word `w[i]` of a schedule, `i` in 0 to 43: round key `r` is words `4r` to `4r+3` (R123). -/
def scheduleWord (rk : Schedule) (i : Nat) : Word := blockWord (scheduleKey rk (i / 4)) (i % 4)

end Sys2Proof.Machine
end

