-- ==== Sys2Proof/Machine/Cipher.lean ====
section
/-! DEFINITION. The block cipher and its inverse (42_block_cipher.md R131, R132, R135). -/

namespace Sys2Proof.Machine

open Sys2Proof

/-- `Round(ST, k)` (R132). -/
def cipherRound (st k : Block) : Block := addRoundKey (mixColumns (shiftRows (subBytes st))) k

/-- `FinalRound(ST, k)`, without `MixColumns` (R132). -/
def finalRound (st k : Block) : Block := addRoundKey (shiftRows (subBytes st)) k

/-- ST after the initial round-key addition and the rounds `RND = 1 .. n`, `n` up to 9 (R131). -/
def cipherRounds (rk : Schedule) (input : Block) : Nat → Block
  | 0 => addRoundKey (loadState input) (scheduleKey rk 0)
  | n + 1 => cipherRound (cipherRounds rk input n) (scheduleKey rk (n + 1))

/-- ST at the end of `Cipher` (R131): nine rounds, then round 10. -/
def cipherState (rk : Schedule) (input : Block) : Block :=
  finalRound (cipherRounds rk input 9) (scheduleKey rk 10)

/-- `Cipher(RK, in)` (R131). -/
def cipher (rk : Schedule) (input : Block) : Block := unloadState (cipherState rk input)

/-- One pass of the loop of R135: InvShiftRows, InvSubBytes, AddRoundKey, InvMixColumns. -/
def invCipherRound (st k : Block) : Block :=
  invMixColumns (addRoundKey (invSubBytes (invShiftRows st)) k)

/-- The last steps of R135, without `InvMixColumns`. -/
def invFinalRound (st k : Block) : Block := addRoundKey (invSubBytes (invShiftRows st)) k

/-- ST after the addition of `RK[10]` and the first `n` passes, `RND = 9 downto 10 - n` (R135). -/
def invCipherRounds (rk : Schedule) (input : Block) : Nat → Block
  | 0 => addRoundKey (loadState input) (scheduleKey rk 10)
  | n + 1 => invCipherRound (invCipherRounds rk input n) (scheduleKey rk (9 - n))

/-- ST at the end of `InvCipher` (R135). -/
def invCipherState (rk : Schedule) (input : Block) : Block :=
  invFinalRound (invCipherRounds rk input 9) (scheduleKey rk 0)

/-- `InvCipher(RK, in)` (R135). -/
def invCipher (rk : Schedule) (input : Block) : Block := unloadState (invCipherState rk input)

end Sys2Proof.Machine
end

