-- ==== Sys2Proof/Machine/Padding.lean ====
section
/-! DEFINITION. The padding engine's functions (43_padding.md R151, R155 to R158). -/

namespace Sys2Proof.Machine

open Sys2Proof

/-- `n`, how many bytes `pad` appends: 1 to 16 (R151). -/
def padCount (data : List Byte) : Nat := 16 - data.length % 16

/-- `pad(data)`: `n` bytes of value `n` after the data (R151). -/
def pad (data : List Byte) : List Byte :=
  data ++ List.replicate (padCount data) (BitVec.ofNat 8 (padCount data))

/-- The `n` trailing bytes all equal the byte `b` (R155, the loop under STRICT_UNPAD). -/
def trailingEqual (data : List Byte) (n : Nat) (b : Byte) : Bool :=
  (data.drop (data.length - n)).all fun x => x == b

/-- `unpad(data)` (R155), for either value of STRICT_UNPAD (R156); none where it raises
InvalidPadding, the empty string among those cases (R157). No multiple of 16 is asked for (R158). -/
def unpad (strict : Bool) (data : List Byte) : Option (List Byte) :=
  match data.getLast? with
  | none => none
  | some b =>
    if b.toNat = 0 then none
    else if 16 < b.toNat then none
    else if data.length < b.toNat then none
    else if strict && !trailingEqual data b.toNat b then none
    else some (data.take (data.length - b.toNat))

end Sys2Proof.Machine
end

