-- ==== Sys2Proof/Machine/State.lean ====
section
/-! DEFINITION. The state of one core instance, why a step can stop, and the state after reset
(10_state.md R20 to R34). -/

namespace Sys2Proof.Machine

open Sys2Proof

/-- What the host does on the ports of 30_encoding.md R60, at the level of the transfers of R61. -/
inductive HostAction where
  /-- Present one byte on `cmd_data`, with `cmd_last`; done when the core has accepted it. -/
  | send (data : Byte) (last : Bool)
  /-- Raise `rsp_ready` until one response byte has been transferred. -/
  | take
  /-- Assert `rst_n` (drive it to 0) and release it (70_reset_and_hazards.md R220). -/
  | reset
deriving DecidableEq, Repr

/-- One byte that moved on the response stream, with `rsp_last` (30_encoding.md R60, R61). -/
structure SentByte where
  data : Byte
  last : Bool
deriving DecidableEq, Repr

/-- The six errors of 60_exceptions.md R191. -/
inductive ErrorCode where
  /-- Code 0x01 (R192). -/
  | invalidKeyLength
  /-- Code 0x02 (R193). -/
  | invalidIVLength
  /-- Code 0x03 (R198). -/
  | invalidCiphertextLength
  /-- Code 0x04 (R200). -/
  | invalidPadding
  /-- Code 0x05 (R194). -/
  | noSchedule
  /-- Code 0x06 (R195). -/
  | illegalCommand
deriving DecidableEq, Repr

/-- The two settings of the XOR arbiter (44_cbc.md R166). -/
inductive ArbiterSetting where
  /-- `CBC_ENCRYPT`: exclusive or before the cipher. -/
  | pre
  /-- `CBC_DECRYPT`: exclusive or after the inverse cipher. -/
  | post
deriving DecidableEq, Repr

/-- The transient registers and buffers (10_state.md R24 to R27). -/
structure Work where
  /-- KEYIN (R24). -/
  keyin : Block
  /-- ST, the cipher state (R25); `ST[r][c]` is byte `r + 4c`. -/
  st : Block
  /-- RND, the round counter, 0 to 10 (R25). -/
  rnd : Nat
  /-- CHAIN, the chaining register (R26). -/
  chain : Block
  /-- CTSAVE, the ciphertext save register (R26). -/
  ctsave : Block
  /-- BLK, the block index, below 2^28 (R26). -/
  blk : Nat
  /-- IBUF, the input data buffer (R27; 20_memory.md R40). -/
  ibuf : List Byte
  /-- OBUF, the output data buffer (R27). -/
  obuf : List Byte
deriving DecidableEq, Repr

/-- One core instance. -/
structure State where
  /-- STRICT_UNPAD, MAX_DATA_LEN, N_INST (00_scope.md R8): fixed when the core is built. -/
  cfg : Config
  /-- KS_VALID (10_state.md R20). -/
  ksValid : Bool
  /-- RK[0..10] (10_state.md R21). -/
  rk : Schedule
  /-- The transient registers and buffers. -/
  work : Work
  /-- The response bytes offered on the response port and not yet transferred, the next one first
  (30_encoding.md R61, R72). -/
  rsp : List Byte
  /-- MODEL's own: what the host will do on the input ports, in order of completion (log 1). -/
  host : List HostAction
  /-- MODEL's own: the bytes that have left on the response port, oldest first (log 9). -/
  sent : List SentByte
  /-- MODEL's own: the index of the next free values (logs 5 and 15). -/
  freeCount : Nat
deriving DecidableEq, Repr

/-- Why a step can stop. All three are the host's doing (30_encoding.md R62, 70_reset_and_hazards.md
R225): the core waits, and goes on when the host acts. Safe: the core makes no step there either. -/
inductive Fault where
  /-- Raised by the frame receiver: the host has not begun a frame, or has not ended the one it began
  (R62). Safe. -/
  | waitingForFrame
  /-- Raised by the frame receiver: a response is offered and the host does not take it; `cmd_ready` is
  0 (30_encoding.md R61, R62). Safe. -/
  | responseNotTaken
  /-- Raised by the frame receiver: the host waits for a response byte when none is offered (R225).
  Safe. -/
  | noResponseToTake
deriving DecidableEq, Repr

/-- Why an instruction can be refused. -/
inductive Refusal where
  /-- Raised by an arm of `exec` without a meaning; no arm of this model is such an arm. Safe. -/
  | notModelled (mnemonic : String)
deriving DecidableEq, Repr

/-- What the frame receiver makes of the host's next actions (30_encoding.md R61, R62). -/
inductive Arrival where
  /-- A whole command frame, and the actions after it. -/
  | frame (bytes : List Byte) (rest : List HostAction)
  /-- One response byte moves to the host; the response bytes and the actions after it. -/
  | transfer (byte : Byte) (more : List Byte) (rest : List HostAction)
  /-- Reset, and the actions after it. -/
  | reset (rest : List HostAction)
  /-- The core waits for the host. -/
  | waiting (why : Fault)
deriving DecidableEq, Repr

/-- The transient registers at reset. The spec gives the two buffers a value, empty (10_state.md R34);
zero for the others is a DESIGN CHOICE (log 4; unsafe). -/
def Work.reset : Work :=
  { keyin := .zero, st := .zero, rnd := 0, chain := .zero, ctsave := .zero, blk := 0,
    ibuf := [], obuf := [] }

/-- The machine right after reset (10_state.md R34, 70_reset_and_hazards.md R220): no schedule, buffers
empty, no command in progress, the parser at the start of a frame. DESIGN CHOICE: `RK` zero (log 3,
unsafe) and the recommended parameters (log 2, unsafe). -/
def State.reset : State :=
  { cfg := Config.recommended, ksValid := false, rk := .zero, work := Work.reset, rsp := [],
    host := [], sent := [], freeCount := 0 }

end Sys2Proof.Machine
end

