-- ==== Sys2Proof/Machine/Ops.lean ====
section
/-! DEFINITION. The shared operations: buffers, the free values at the end of a command, the two
outcomes of a command (OK and error), one response byte leaving, and reset. -/

namespace Sys2Proof.Machine

open Sys2Proof

/-- Byte `k` of a buffer. Every rule reads inside the buffer (20_memory.md R48); beyond it this reads
zero, which no command reaches (log 11). -/
def bufByte (buf : List Byte) (k : Nat) : Byte := buf.getD k 0

/-- `Block(buf, i)`, the bytes at offsets `16i` to `16i + 15` (20_memory.md R45). -/
def bufBlock (buf : List Byte) (i : Nat) : Block := blockOfFn fun j => bufByte buf (16 * i + j)

/-- `BufAppend(OBUF, v)` (00_scope.md R14). -/
def appendOut (v : List Byte) (w : Work) : Work := { w with obuf := w.obuf ++ v }

/-- IBUF is loaded from the data operand and OBUF is emptied (10_state.md R27). -/
def loadBuffers (data : List Byte) (w : Work) : Work := { w with ibuf := data, obuf := [] }

/-- The padding engine: `IBUF <- pad(IBUF)` (20_memory.md R40, 44_cbc.md R170). -/
def padInput (w : Work) : Work := { w with ibuf := pad w.ibuf }

/-- `Cipher(RK, in)` run in ST with RND counting to 10 (42_block_cipher.md R131). -/
def runCipher (rk : Schedule) (input : Block) (w : Work) : Work :=
  { w with st := cipherState rk input, rnd := 10 }

/-- `InvCipher(RK, in)` run in ST with RND counting down to 0 (42_block_cipher.md R135). -/
def runInvCipher (rk : Schedule) (input : Block) (w : Work) : Work :=
  { w with st := invCipherState rk input, rnd := 0 }

/-- `KEYIN <- KEY` (41_key_expansion.md R120). -/
def loadKey (key : Block) (w : Work) : Work := { w with keyin := key }

/-- The schedule of KEYIN, with RND counting to 10 (41_key_expansion.md R120, R123). -/
def runKeyExpansion (w : Work) : Work × Schedule := ({ w with rnd := 10 }, keyExpansion w.keyin)

/-- The transient registers between commands: any value, within each one's limit, and never one that a
later command reads (10_state.md R24 to R28). DEDUCED, log 5. DESIGN CHOICE, logs 5 and 15: the values
are those of the index `n`, and no two instances of a system use one index. -/
def freeWork (c : Config) (n : Nat) : Work :=
  { keyin := Config.freeKeyin n
    st := Config.freeSt n
    rnd := (Config.freeRnd n).val
    chain := Config.freeChain n
    ctsave := Config.freeCtsave n
    blk := (Config.freeBlk n).val
    ibuf := (Config.freeIbuf n).take (c.maxDataLen + 16)
    obuf := (Config.freeObuf n).take (c.maxDataLen + 16) }

/-- The index of the next free values: the instances of a system take turns, so that none uses an index
of another (DESIGN CHOICE, logs 5 and 15). -/
def nextFree (s : State) : Nat := s.freeCount + s.cfg.nInst

/-- The transient registers take fresh free values. -/
def releaseWork (s : State) : State :=
  { s with work := freeWork s.cfg s.freeCount, freeCount := nextFree s }

/-- The STATUS byte of an error (30_encoding.md R73, 60_exceptions.md R191). -/
def errorStatus : ErrorCode → Byte
  | .invalidKeyLength => 0x01#8
  | .invalidIVLength => 0x02#8
  | .invalidCiphertextLength => 0x03#8
  | .invalidPadding => 0x04#8
  | .noSchedule => 0x05#8
  | .illegalCommand => 0x06#8

/-- A response frame: STATUS, RLEN, RDATA (30_encoding.md R72). -/
def responseFrame (status : Byte) (rdata : List Byte) : List Byte :=
  status :: (be32 rdata.length ++ rdata)

/-- The response frame is offered and the command ends. -/
def respond (status : Byte) (rdata : List Byte) (s : State) : State :=
  releaseWork { s with rsp := responseFrame status rdata }

/-- `return v`: an OK response (00_scope.md R14, R15). -/
def complete (v : List Byte) (s : State) : Host.Outcome State Fault Refusal :=
  .next (respond 0x00#8 v s)

/-- `raise E` (60_exceptions.md R196): OBUF is discarded, the response is the status and four zero
bytes, persistent state is kept, and the core goes back to waiting for a command frame. There is no
return operation beside it: the spec has no handler and nothing to return from (R199). -/
def raise (e : ErrorCode) (s : State) : Host.Outcome State Fault Refusal :=
  .next (respond (errorStatus e) [] s)

/-- One byte moves on the response stream; `rsp_last` marks the last of the frame (30_encoding.md R60,
R61). -/
def transferByte (b : Byte) (more : List Byte) (s : State) : State :=
  { s with rsp := more, sent := s.sent ++ [⟨b, more.isEmpty⟩] }

/-- Reset (70_reset_and_hazards.md R220 to R222): `KS_VALID` is 0, `RK` is any value, the buffers are
empty, whatever was in flight is discarded; the parameters stay. The free values are those of this
instance's own index, which no other instance of its system uses (DESIGN CHOICE, logs 6 and 15). -/
def resetCore (s : State) : State :=
  { s with
    ksValid := false
    rk := Config.freeSchedule s.freeCount
    work := { freeWork s.cfg s.freeCount with ibuf := [], obuf := [] }
    rsp := []
    freeCount := nextFree s }

end Sys2Proof.Machine
end

