-- ==== Sys2Proof/Machine/Flags.lean ====
section
/-! DEFINITION. `KS_VALID`, the only flag (10_state.md R20, R30): who reads it and who sets it. -/

namespace Sys2Proof.Machine

open Sys2Proof

/-- The schedule of a command that needs one, or NoSchedule (60_exceptions.md R194). `RK` is read only
where `KS_VALID` is 1 (10_state.md R21). -/
def requireSchedule (s : State) (run : Schedule → Host.Outcome State Fault Refusal) :
    Host.Outcome State Fault Refusal :=
  if s.ksValid then run s.rk else raise .noSchedule s

/-- All eleven round keys are written together and `KS_VALID` is set (41_key_expansion.md R120). -/
def loadSchedule (rk : Schedule) (s : State) : State := { s with rk := rk, ksValid := true }

end Sys2Proof.Machine
end

