-- ==== Sys2Proof/Machine/BlockCommands.lean ====
section
/-! DEFINITION. `ENCRYPT_BLOCK` and `DECRYPT_BLOCK` (42_block_cipher.md). -/

namespace Sys2Proof.Machine

open Sys2Proof

/-- `ENCRYPT_BLOCK` (R130): `Cipher(RK, BLOCK)`. DESIGN CHOICE, log 21: the spec does not say what IBUF
holds in a command without a data operand; here it is the block, all sixteen bytes of it, also where
MAX_DATA_LEN, the capacity of IBUF as received (10_state.md R27), is below 16. -/
def execEncryptBlock (block : Block) (s : State) : Host.Outcome State Fault Refusal :=
  requireSchedule s fun rk =>
    let w := runCipher rk block (loadBuffers (blockBytes block) s.work)
    complete (appendOut (blockBytes (unloadState w.st)) w).obuf s

/-- `DECRYPT_BLOCK` (R134): `InvCipher(RK, BLOCK)`. DESIGN CHOICE, log 21: the spec does not say what IBUF
holds in a command without a data operand; here it is the block, all sixteen bytes of it, also where
MAX_DATA_LEN, the capacity of IBUF as received (10_state.md R27), is below 16. -/
def execDecryptBlock (block : Block) (s : State) : Host.Outcome State Fault Refusal :=
  requireSchedule s fun rk =>
    let w := runInvCipher rk block (loadBuffers (blockBytes block) s.work)
    complete (appendOut (blockBytes (unloadState w.st)) w).obuf s

end Sys2Proof.Machine
end

