-- ==== Sys2Proof/Machine/Chaining.lean ====
section
/-! DEFINITION. The chaining unit and its XOR arbiter (44_cbc.md R165 to R167, R170, R175, R176). -/

namespace Sys2Proof.Machine

open Sys2Proof

/-- One block step under an arbiter setting (R166). `PRE`: the plaintext block and CHAIN go through the
exclusive or into the cipher, and CHAIN takes the block produced (R170). `POST`: the ciphertext block
is saved in CTSAVE and goes through the inverse cipher, its output and the old CHAIN go through the
exclusive or into OBUF, and then CHAIN takes CTSAVE (R175, R176). -/
def chainStep (a : ArbiterSetting) (rk : Schedule) (w : Work) (i : Nat) : Work :=
  match a with
  | .pre =>
    let w := { w with blk := i }
    let w := runCipher rk ((bufBlock w.ibuf w.blk).xor w.chain) w
    let c := unloadState w.st
    let w := appendOut (blockBytes c) w
    { w with chain := c }
  | .post =>
    let w := { w with blk := i }
    let w := { w with ctsave := bufBlock w.ibuf w.blk }
    let w := runInvCipher rk w.ctsave w
    let q := (unloadState w.st).xor w.chain
    let w := appendOut (blockBytes q) w
    { w with chain := w.ctsave }

/-- CHAIN is loaded from the IV operand, and only from it, before block 0 (R167). -/
def loadChain (iv : Block) (w : Work) : Work := { w with chain := iv }

/-- The block loop, `BLK` in 0 to `m - 1` in increasing order (R170, R175). -/
def chainRun (a : ArbiterSetting) (rk : Schedule) (iv : Block) (w : Work) : Work :=
  (List.range (w.ibuf.length / 16)).foldl (chainStep a rk) (loadChain iv w)

end Sys2Proof.Machine
end

