-- ==== Sys2Proof/Machine/Operands.lean ====
section
/-! DEFINITION. The operand forms that an operation checks itself: the key and the IV, counted strings
that must be sixteen bytes (60_exceptions.md R192, R193), and the ciphertext (R198). The frame's own
operand forms are in Sys2Proof/Decode.lean. -/

namespace Sys2Proof.Machine

open Sys2Proof

/-- A counted string used as a sixteen-byte operand, or the error of its wrong length. -/
def requireBlock (bytes : List Byte) (e : ErrorCode) (s : State)
    (run : Block → Host.Outcome State Fault Refusal) : Host.Outcome State Fault Refusal :=
  match blockOfBytes bytes with
  | some b => run b
  | none => raise e s

/-- A ciphertext's length is not zero and is a multiple of 16 (44_cbc.md R175, 60_exceptions.md R198). -/
def ciphertextLengthOk (ct : List Byte) : Bool :=
  !(decide (ct.length = 0)) && decide (ct.length % 16 = 0)

end Sys2Proof.Machine
end

