-- ==== Sys2Proof/Machine/CbcCommands.lean ====
section
/-! DEFINITION. `CBC_ENCRYPT` and `CBC_DECRYPT` (44_cbc.md). -/

namespace Sys2Proof.Machine

open Sys2Proof

/-- `CBC_ENCRYPT` (R168 to R170): the schedule, then the IV length, then padding and chaining with the
arbiter at `PRE`. -/
def execCbcEncrypt (iv data : List Byte) (s : State) : Host.Outcome State Fault Refusal :=
  requireSchedule s fun rk =>
    requireBlock iv .invalidIVLength s fun v =>
      complete (chainRun .pre rk v (padInput (loadBuffers data s.work))).obuf s

/-- `CBC_DECRYPT` (R173 to R177): the schedule, the IV length, the ciphertext length, chaining with the
arbiter at `POST`, then `return unpad(OBUF)`, once over the whole of OBUF: the value returned is the
response, OBUF itself only grew by appending (20_memory.md R48), and where `unpad` fails it is discarded.
That `unpad` reads OBUF is R175's own pseudocode (log 22). -/
def execCbcDecrypt (iv data : List Byte) (s : State) : Host.Outcome State Fault Refusal :=
  requireSchedule s fun rk =>
    requireBlock iv .invalidIVLength s fun v =>
      if ciphertextLengthOk data then
        let w := chainRun .post rk v (loadBuffers data s.work)
        match unpad s.cfg.strictUnpad w.obuf with
        | some d => complete d s
        | none => raise .invalidPadding s
      else raise .invalidCiphertextLength s

end Sys2Proof.Machine
end

