-- ==== Sys2Proof/Machine/KeyCommand.lean ====
section
/-! DEFINITION. `DERIVE_SCHEDULE` (41_key_expansion.md). -/

namespace Sys2Proof.Machine

open Sys2Proof

/-- `DERIVE_SCHEDULE` (R120, R121): the key must be sixteen bytes; KEYIN takes it; RK takes its whole
expansion and `KS_VALID` becomes 1; no data is returned. DESIGN CHOICE, log 21: the spec does not say what
IBUF holds in a command without a data operand; here it is empty. -/
def execDeriveSchedule (key : List Byte) (s : State) : Host.Outcome State Fault Refusal :=
  requireBlock key .invalidKeyLength s fun k =>
    let run := runKeyExpansion (loadKey k (loadBuffers [] s.work))
    complete run.1.obuf (loadSchedule run.2 s)

end Sys2Proof.Machine
end

