-- ==== Sys2Proof/Machine/PaddingCommands.lean ====
section
/-! DEFINITION. `PAD` and `UNPAD` (43_padding.md). -/

namespace Sys2Proof.Machine

open Sys2Proof

/-- `PAD` (R150): `pad(DATA)`; no error of its own. The padding engine leaves the padded data in IBUF
(20_memory.md R40), from where it goes to OBUF. -/
def execPad (data : List Byte) (s : State) : Host.Outcome State Fault Refusal :=
  let w := padInput (loadBuffers data s.work)
  complete (appendOut w.ibuf w).obuf s

/-- `UNPAD` (R154): `unpad(DATA)`, or InvalidPadding. -/
def execUnpad (data : List Byte) (s : State) : Host.Outcome State Fault Refusal :=
  let w := loadBuffers data s.work
  match unpad s.cfg.strictUnpad w.ibuf with
  | some d => complete (appendOut d w).obuf s
  | none => raise .invalidPadding s

end Sys2Proof.Machine
end

