-- ==== Sys2Proof/Machine/Dispatch.lean ====
section
/-! DEFINITION. The dispatch of 30_encoding.md R76: one arm for each command. -/

namespace Sys2Proof.Machine

open Sys2Proof

def exec (i : Instr) (s : State) : Host.Outcome State Fault Refusal :=
  match i with
  | .deriveSchedule key => Sys2Proof.Machine.execDeriveSchedule key s
  | .encryptBlock block => Sys2Proof.Machine.execEncryptBlock block s
  | .decryptBlock block => Sys2Proof.Machine.execDecryptBlock block s
  | .pad data => Sys2Proof.Machine.execPad data s
  | .unpad data => Sys2Proof.Machine.execUnpad data s
  | .cbcEncrypt iv data => Sys2Proof.Machine.execCbcEncrypt iv data s
  | .cbcDecrypt iv data => Sys2Proof.Machine.execCbcDecrypt iv data s

end Sys2Proof.Machine
end

