-- ==== Sys2Proof/Machine/Receiver.lean ====
section
/-! DEFINITION. The frame receiver and the ports (30_encoding.md R60 to R62). -/

namespace Sys2Proof.Machine

open Sys2Proof

/-- `cmd_ready`: the core accepts command bytes when no response is offered (R61). -/
def cmdReady (s : State) : Bool := s.rsp.isEmpty

/-- `rsp_valid`: a response byte is offered (R60). -/
def rspValid (s : State) : Bool := !s.rsp.isEmpty

/-- `rsp_data`: the response byte offered, if one is (R60). -/
def rspData (s : State) : Option Byte := s.rsp.head?

/-- `rsp_last`: the byte offered is the last of its frame (R60). -/
def rspLast (s : State) : Bool := decide (s.rsp.length = 1)

/-- Collect a frame: the run of bytes up to and including the next byte sent with `last` (R61). The
core does nothing until the frame is whole (R62); reset discards what has arrived
(70_reset_and_hazards.md R221); a host that waits for a response in the midst of its frame waits for
ever (R225). -/
def receiveFrame (acc : List Byte) : List HostAction → Arrival
  | [] => .waiting .waitingForFrame
  | .send b true :: rest => .frame (acc ++ [b]) rest
  | .send b false :: rest => receiveFrame (acc ++ [b]) rest
  | .take :: _ => .waiting .noResponseToTake
  | .reset :: rest => .reset rest

/-- What happens next at the ports. While a response is offered, `cmd_ready` is 0 and only the response
stream or reset can move (30_encoding.md R61). -/
def nextArrival (s : State) : Arrival :=
  match s.rsp, s.host with
  | [], host => receiveFrame [] host
  | b :: more, .take :: rest => .transfer b more rest
  | _ :: _, .reset :: rest => .reset rest
  | _ :: _, .send _ _ :: _ => .waiting .responseNotTaken
  | _ :: _, [] => .waiting .responseNotTaken

/-- The actions by which the host sends a frame: its bytes in order, `cmd_last` with the last (R61). -/
def sendFrame : List Byte → List HostAction
  | [] => []
  | [b] => [.send b true]
  | b :: c :: rest => .send b false :: sendFrame (c :: rest)

/-- The host's next actions send this frame, what it was about to do comes after, and the previous
response has been taken. -/
def withCommandFrame (s : State) (f : List Byte) : State :=
  { s with host := sendFrame f ++ s.host, rsp := [] }

end Sys2Proof.Machine
end

