-- ==== Sys2Proof/Machine/Transaction.lean ====
section
/-! DEFINITION. What one transaction does: a whole command frame run, one response byte transferred, or
a reset (00_scope.md R9, 30_encoding.md R62, R76). -/

namespace Sys2Proof.Machine

open Sys2Proof

/-- `Step` of 30_encoding.md R76 on a whole command frame: a malformed frame raises IllegalCommand. -/
def runFrame (f : List Byte) (s : State) : Host.Outcome State Fault Refusal :=
  match decode s.cfg f with
  | .ok i => exec i s
  | .error _ => raise .illegalCommand s

/-- What the core does with what has arrived. Where the host does not act, the core waits: a named fault
(30_encoding.md R62). -/
def runArrival (a : Arrival) (s : State) : Host.Outcome State Fault Refusal :=
  match a with
  | .frame f rest => runFrame f { s with host := rest }
  | .transfer b more rest => .next (transferByte b more { s with host := rest })
  | .reset rest => .next (resetCore { s with host := rest })
  | .waiting why => .fault why

end Sys2Proof.Machine
end

