-- ==== Sys2Proof/Machine/Step.lean ====
section
/-! DEFINITION. One step of an instance: its next transaction (00_scope.md R9, 30_encoding.md R62, R76). -/

namespace Sys2Proof.Machine

open Sys2Proof

/-- One step: what the core does with what arrives next at its ports. -/
def step (s : State) : Host.Outcome State Fault Refusal := runArrival (nextArrival s) s

/-- The host is about to send the frame of a row of the opcode table, its further bits zero, and the
previous response has been taken: the next step runs that frame (log 14). -/
def State.withFetchWord (s : State) (nbits w : Nat) : State := withCommandFrame s (tableFrame nbits w)

end Sys2Proof.Machine
end

