-- ==== Sys2Proof/Machine/HostCbc.lean ====
section
/-! DEFINITION. CBC made by a host with the block commands alone, the host doing the exclusive or
(44_cbc.md R181). Not a part of the core: a way to use it, for statements to speak of. -/

namespace Sys2Proof.Machine

open Sys2Proof

/-- The block that an outcome answers: the sixteen data bytes of its response, if that is what it
answers. -/
def answeredBlock : Host.Outcome State Fault Refusal → Option Block
  | .next t => blockOfBytes (t.rsp.drop 5)
  | .fault _ => none
  | .refused _ => none

/-- `ENCRYPT_BLOCK block=(P[i] xor prev)` for each block in order, `prev` the IV or the previous
response; the responses end to end (R181). -/
def hostCipherBlocks (s : State) : Block → List Block → Option (List Byte)
  | _, [] => some []
  | prev, p :: ps =>
    match answeredBlock (exec (.encryptBlock (p.xor prev)) s) with
    | some c => (hostCipherBlocks s c ps).map fun rest => blockBytes c ++ rest
    | none => none

/-- `DECRYPT_BLOCK block=C[i]` for each block in order, each response xor the IV or the previous
ciphertext block; the results end to end (R181). -/
def hostPlainBlocks (s : State) : Block → List Block → Option (List Byte)
  | _, [] => some []
  | prev, c :: cs =>
    match answeredBlock (exec (.decryptBlock c) s) with
    | some y => (hostPlainBlocks s c cs).map fun rest => blockBytes (y.xor prev) ++ rest
    | none => none

end Sys2Proof.Machine
end

