-- ==== Sys2Proof/Machine/Equations.lean ====
section
/-! DEFINITION. The spec's own functions, written without the machine's registers, for statements to
speak of: CBC as equations on lists of blocks (44_cbc.md R170, R175, "As equations"), the dispatch
function on the pair (`KS_VALID`, `RK`) (30_encoding.md R76), and a host's session on the two byte
streams (30_encoding.md R61, 20_memory.md R50). -/

namespace Sys2Proof.Machine

open Sys2Proof

/-- The blocks of a buffer, block `i` at offsets `16i` to `16i + 15` (20_memory.md R45). -/
def bufBlocks (buf : List Byte) : List Block := (List.range (buf.length / 16)).map (bufBlock buf)

/-- Blocks end to end (20_memory.md R45). -/
def joinBlocks (bs : List Block) : List Byte := bs.flatMap blockBytes

/-- `C[i] = Cipher(RK, P[i] xor C[i-1])`, with `prev` for `C[-1]` (R170). -/
def cbcCipherBlocks (rk : Schedule) : Block → List Block → List Block
  | _, [] => []
  | prev, p :: ps => cipher rk (p.xor prev) :: cbcCipherBlocks rk (cipher rk (p.xor prev)) ps

/-- `Q[i] = InvCipher(RK, C[i]) xor C[i-1]`, with `prev` for `C[-1]` (R175). -/
def cbcPlainBlocks (rk : Schedule) : Block → List Block → List Block
  | _, [] => []
  | prev, c :: cs => (invCipher rk c).xor prev :: cbcPlainBlocks rk c cs

/-- `cbc_encrypt(RK, iv, pt)` (R170). -/
def cbcEncrypt (rk : Schedule) (iv : Block) (pt : List Byte) : List Byte :=
  joinBlocks (cbcCipherBlocks rk iv (bufBlocks (pad pt)))

/-- `cbc_decrypt(RK, iv, ct)` (R175): the result, or the error it raises. -/
def cbcDecrypt (strict : Bool) (rk : Schedule) (iv : Block) (ct : List Byte) :
    Except ErrorCode (List Byte) :=
  if ciphertextLengthOk ct then
    match unpad strict (joinBlocks (cbcPlainBlocks rk iv (bufBlocks ct))) with
    | some d => .ok d
    | none => .error .invalidPadding
  else .error .invalidCiphertextLength

/-- The persistent state, all that outlives a command (10_state.md R28). -/
structure Persistent where
  ksValid : Bool
  rk : Schedule
deriving DecidableEq, Repr

/-- The persistent state of an instance. -/
def persistent (s : State) : Persistent := ⟨s.ksValid, s.rk⟩

/-- NoSchedule where `KS_VALID` is 0 (60_exceptions.md R194). -/
def withHeld (p : Persistent) (run : Schedule → Except ErrorCode (List Byte)) :
    Except ErrorCode (List Byte) :=
  if p.ksValid then run p.rk else .error .noSchedule

/-- The error of an operand that must be sixteen bytes (60_exceptions.md R192, R193). -/
def withBlock (bytes : List Byte) (e : ErrorCode) (run : Block → Except ErrorCode (List Byte)) :
    Except ErrorCode (List Byte) :=
  match blockOfBytes bytes with
  | some b => run b
  | none => .error e

/-- What a command returns or raises (30_encoding.md R76 and the rules it names). -/
def commandOutcome (c : Config) (p : Persistent) : Instr → Except ErrorCode (List Byte)
  | .deriveSchedule key => withBlock key .invalidKeyLength fun _ => .ok []
  | .encryptBlock block => withHeld p fun rk => .ok (blockBytes (cipher rk block))
  | .decryptBlock block => withHeld p fun rk => .ok (blockBytes (invCipher rk block))
  | .pad data => .ok (pad data)
  | .unpad data =>
    match unpad c.strictUnpad data with
    | some d => .ok d
    | none => .error .invalidPadding
  | .cbcEncrypt iv data =>
    withHeld p fun rk => withBlock iv .invalidIVLength fun v => .ok (cbcEncrypt rk v data)
  | .cbcDecrypt iv data =>
    withHeld p fun rk => withBlock iv .invalidIVLength fun v => cbcDecrypt c.strictUnpad rk v data

/-- The persistent state after a command: only `DERIVE_SCHEDULE` returning OK changes it (30_encoding.md
R76). -/
def commandPersistent (p : Persistent) : Instr → Persistent
  | .deriveSchedule key =>
    match blockOfBytes key with
    | some k => ⟨true, keyExpansion k⟩
    | none => p
  | .encryptBlock _ => p
  | .decryptBlock _ => p
  | .pad _ => p
  | .unpad _ => p
  | .cbcEncrypt _ _ => p
  | .cbcDecrypt _ _ => p

/-- What a frame is answered with: a malformed frame raises IllegalCommand (30_encoding.md R76). -/
def frameOutcome (c : Config) (p : Persistent) (f : List Byte) : Except ErrorCode (List Byte) :=
  match decode c f with
  | .ok i => commandOutcome c p i
  | .error _ => .error .illegalCommand

/-- The persistent state after a frame (30_encoding.md R76). -/
def framePersistent (c : Config) (p : Persistent) (f : List Byte) : Persistent :=
  match decode c f with
  | .ok i => commandPersistent p i
  | .error _ => p

/-- The response frame of an outcome (30_encoding.md R72, R73, R76). -/
def outcomeFrame : Except ErrorCode (List Byte) → List Byte
  | .ok v => responseFrame 0x00#8 v
  | .error e => responseFrame (errorStatus e) []

/-- The bytes of a response frame as they leave on the response port (30_encoding.md R61). -/
def sentFrame : List Byte → List SentByte
  | [] => []
  | [b] => [⟨b, true⟩]
  | b :: c :: rest => ⟨b, false⟩ :: sentFrame (c :: rest)

/-- A host that sends each frame and takes the whole of its response before the next
(70_reset_and_hazards.md R225). -/
def sessionActions (c : Config) : Persistent → List (List Byte) → List HostAction
  | _, [] => []
  | p, f :: fs =>
    sendFrame f ++ List.replicate (outcomeFrame (frameOutcome c p f)).length .take ++
      sessionActions c (framePersistent c p f) fs

/-- How many steps a session takes: one for each frame, one for each response byte. -/
def sessionSteps (c : Config) : Persistent → List (List Byte) → Nat
  | _, [] => 0
  | p, f :: fs =>
    1 + (outcomeFrame (frameOutcome c p f)).length + sessionSteps c (framePersistent c p f) fs

/-- What leaves on the response port in a session: the responses in the order of the commands
(20_memory.md R50). -/
def sessionSent (c : Config) : Persistent → List (List Byte) → List SentByte
  | _, [] => []
  | p, f :: fs =>
    sentFrame (outcomeFrame (frameOutcome c p f)) ++ sessionSent c (framePersistent c p f) fs

/-- The persistent state after a session. -/
def sessionPersistent (c : Config) : Persistent → List (List Byte) → Persistent
  | p, [] => p
  | p, f :: fs => sessionPersistent c (framePersistent c p f) fs

end Sys2Proof.Machine
end

