-- ==== Sys2Proof/Machine/System.lean ====
section
/-! DEFINITION. A system of N_INST instances (60_exceptions.md R212, 20_memory.md R51): independent
copies that share no state. -/

namespace Sys2Proof.Machine

open Sys2Proof

/-- The instances of a system, instance 0 first. -/
abbrev System := List State

/-- The system has as many instances as each of them was built for (00_scope.md R8). -/
abbrev systemWf (c : Config) (y : System) : Prop := y.length = c.nInst ∧ ∀ s ∈ y, s.cfg = c

/-- Instance `i` right after its reset. Its free values are those of the indexes `i`, `i + N_INST`,
`i + 2 N_INST`, ..., so nothing relates them to another instance's: RK and the transient registers of
different instances are each unspecified on their own (10_state.md R34). DESIGN CHOICE, log 15. -/
def instanceReset (c : Config) (i : Nat) : State :=
  resetCore { State.reset with cfg := c, freeCount := i }

/-- Right after reset of all: N_INST instances, each in its own reset state (60_exceptions.md R212). -/
def systemReset (c : Config) : System := (List.range c.nInst).map (instanceReset c)

/-- Instance `i` makes a step; none where there is no such instance or it makes no step. -/
def stepInstance (i : Nat) (y : System) : Option System :=
  match y[i]? with
  | none => none
  | some s =>
    match step s with
    | .next t => some (y.set i t)
    | .fault _ => none
    | .refused _ => none

end Sys2Proof.Machine
end

