-- ==== Sys2Proof/Safety.lean ====
section
/-! DEFINITION. The terms claims are stated in: the state after a command has been answered, the
invariant of every reachable state, and what two states that differ in unobservable parts have in common. -/

namespace Sys2Proof.Machine

open Sys2Proof

/-- The state right after a command is answered with a status and result bytes: the response frame of
30_encoding.md R72 is offered, the transient registers hold unspecified values (10_state.md R24 to
R27), and everything else is as it was. -/
def answered (s : State) (status : Byte) (data : List Byte) : State :=
  { s with
    rsp := status :: (be32 data.length ++ data)
    work := freeWork s.cfg s.freeCount
    freeCount := s.freeCount + s.cfg.nInst }

/-- The parameters are legal (00_scope.md R8); a held schedule is the expansion of its first round key
(10_state.md R23); the transient registers are within the limits of 10_state.md section 1; no response
is longer than the longest result, `MAX_DATA_LEN + 16` bytes, makes it (30_encoding.md R69, R72). -/
abbrev Inv (s : State) : Prop :=
  s.cfg.wf ∧ (s.ksValid = true → s.rk = keyExpansion s.rk.k0) ∧
  s.work.rnd ≤ 10 ∧ s.work.blk < 268435456 ∧
  s.work.ibuf.length ≤ s.cfg.maxDataLen + 16 ∧ s.work.obuf.length ≤ s.cfg.maxDataLen + 16 ∧
  s.rsp.length ≤ s.cfg.maxDataLen + 21

/-- Two states that the host cannot tell apart: the transient registers may differ (10_state.md R28),
and `RK` may differ as long as no schedule is held (10_state.md R21). -/
def SameToHost (s t : State) : Prop :=
  s.cfg = t.cfg ∧ s.ksValid = t.ksValid ∧ (s.ksValid = true → s.rk = t.rk) ∧ s.rsp = t.rsp ∧
  s.host = t.host ∧ s.sent = t.sent

/-- The commands that need the schedule (60_exceptions.md R191, R194). -/
def needsSchedule : Instr → Bool
  | .deriveSchedule _ => false
  | .encryptBlock _ => true
  | .decryptBlock _ => true
  | .pad _ => false
  | .unpad _ => false
  | .cbcEncrypt _ _ => true
  | .cbcDecrypt _ _ => true

/-- The data that `unpad` rejects (60_exceptions.md R200): it is empty; or its last byte `n` is 0; or
`n > 16`; or `n` exceeds its length; or, only when STRICT_UNPAD = 1, one of the last `n` bytes differs
from `n`. -/
def badPadding (strict : Bool) (data : List Byte) : Prop :=
  data = [] ∨ ∃ b, data.getLast? = some b ∧
    (b.toNat = 0 ∨ 16 < b.toNat ∨ data.length < b.toNat ∨
      (strict = true ∧ ∃ x ∈ data.drop (data.length - b.toNat), x ≠ b))

/-- The block of sixteen bytes 10, the padding of data whose length is a multiple of 16 (43_padding.md
R151). -/
def fullPadBlock : Block := blockOfFn fun _ => 0x10#8

end Sys2Proof.Machine
end

