-- ==== Sys2Proof/Certificates/Slice0/Obligations.lean ====
section
/-! DEFINITION. The statements for the provers, from the numbered rules of spec/. -/

open Sys2Proof Sys2Proof.Machine

/-! ### Frames (30_encoding.md) -/

/-- Every command that has a frame is read back from it, with every operand at every value the encoding
admits (30_encoding.md R63 to R71). -/
def Obligations.DecodeOfEncodeIsTheCommand : Prop :=
  ∀ (c : Config) (i : Instr), i.wellFormed c = true → decode c (encode i) = .ok i

/-- A frame the decoder accepts is the frame of the command it reads, and that command is within the
limits: each command has one frame and each frame one command (30_encoding.md R71). -/
def Obligations.DecodedFrameIsItsEncoding : Prop :=
  ∀ (c : Config) (f : List Byte) (i : Instr),
    decode c f = .ok i → encode i = f ∧ i.wellFormed c = true

/-- Opcodes 0x00 and 0x08 to 0xFF are illegal whatever follows (30_encoding.md R74). -/
def Obligations.IllegalOpcodesAreRejected : Prop :=
  ∀ (c : Config) (opc : Byte) (body : List Byte),
    opc.toNat = 0 ∨ 8 ≤ opc.toNat → decode c (opc :: body) = .error .illegalOpcode

/-- Frames written out from the tables of 30_encoding.md R65 to R68 decode to the commands they stand
for. -/
def Obligations.FramesFromTheFormatTablesDecode : Prop :=
  decode Config.recommended [0x01, 0, 0, 0, 3, 0xa1, 0xb2, 0xc3] =
      .ok (.deriveSchedule [0xa1, 0xb2, 0xc3]) ∧
  decode Config.recommended
      [0x02, 0, 1, 2, 3, 4, 5, 6, 7, 8, 9, 10, 11, 12, 13, 14, 15] =
      .ok (.encryptBlock ⟨⟨0, 1, 2, 3⟩, ⟨4, 5, 6, 7⟩, ⟨8, 9, 10, 11⟩, ⟨12, 13, 14, 15⟩⟩) ∧
  decode Config.recommended
      [0x03, 15, 14, 13, 12, 11, 10, 9, 8, 7, 6, 5, 4, 3, 2, 1, 0] =
      .ok (.decryptBlock ⟨⟨15, 14, 13, 12⟩, ⟨11, 10, 9, 8⟩, ⟨7, 6, 5, 4⟩, ⟨3, 2, 1, 0⟩⟩) ∧
  decode Config.recommended [0x04, 0, 0, 0, 2, 0x41, 0x42] = .ok (.pad [0x41, 0x42]) ∧
  decode Config.recommended [0x05, 0, 0, 0, 1, 0x01] = .ok (.unpad [0x01]) ∧
  decode Config.recommended [0x06, 0, 0, 0, 1, 0x11, 0, 0, 0, 2, 0x22, 0x33] =
      .ok (.cbcEncrypt [0x11] [0x22, 0x33]) ∧
  decode Config.recommended [0x07, 0, 0, 0, 2, 0x11, 0x22, 0, 0, 0, 1, 0x33] =
      .ok (.cbcDecrypt [0x11, 0x22] [0x33])

/-- `be32` gives the most significant byte first and `unbe32` is its inverse both ways (00_scope.md
R12, 20_memory.md R43). -/
def Obligations.LengthFieldsAreBigEndian : Prop :=
  (∀ n : Nat, n < 4294967296 → ∃ a b c d : Byte, be32 n = [a, b, c, d] ∧ unbe32 a b c d = n ∧
    a.toNat = n / 16777216 ∧ b.toNat = n / 65536 % 256 ∧ c.toNat = n / 256 % 256 ∧ d.toNat = n % 256) ∧
  (∀ a b c d : Byte, unbe32 a b c d < 4294967296 ∧ be32 (unbe32 a b c d) = [a, b, c, d])

/-! ### Steps, ports and reset -/

/-- When the host has sent a whole frame that decodes to a command, the step is that command's
execution on the state with the frame consumed (30_encoding.md R61, R62, R76). -/
def Obligations.StepRunsTheDecodedCommand : Prop :=
  ∀ (s : State) (f : List Byte) (rest : List HostAction) (i : Instr),
    s.rsp = [] → f ≠ [] → s.host = sendFrame f ++ rest → decode s.cfg f = .ok i →
      step s = exec i { s with host := rest }

/-- A malformed frame, whatever makes it so, is answered `06 00000000` and changes no persistent state
(60_exceptions.md R195, 30_encoding.md R74). The transient registers take unspecified values. -/
def Obligations.MalformedFrameIsAnsweredIllegalCommand : Prop :=
  ∀ (s : State) (f : List Byte) (rest : List HostAction) (m : Malformed),
    s.rsp = [] → f ≠ [] → s.host = sendFrame f ++ rest → decode s.cfg f = .error m →
      ∃ t, step s = .next t ∧ t = answered { s with host := rest } 0x06#8 [] ∧
        t.rsp = [0x06, 0, 0, 0, 0] ∧ t.ksValid = s.ksValid ∧ t.rk = s.rk

/-- While a response byte is offered the core accepts no command byte: the host must take it, and the
byte that leaves is marked last exactly when it ends the response (30_encoding.md R61). -/
def Obligations.ResponseIsTakenBeforeTheNextCommand : Prop :=
  ∀ (s : State) (b : Byte) (more : List Byte), s.rsp = b :: more →
    cmdReady s = false ∧ rspValid s = true ∧ rspData s = some b ∧ (rspLast s = true ↔ more = []) ∧
    (∀ d l rest, s.host = .send d l :: rest → step s = .fault .responseNotTaken) ∧
    (s.host = [] → step s = .fault .responseNotTaken) ∧
    (∀ rest, s.host = .take :: rest →
      step s = .next { s with rsp := more, host := rest, sent := s.sent ++ [⟨b, more.isEmpty⟩] })

/-- A frame the host begins and never ends makes no step, and neither does a host that waits for a
response in the midst of its frame (30_encoding.md R62, 70_reset_and_hazards.md R225). -/
def Obligations.UnfinishedFrameMakesNoStep : Prop :=
  ∀ (s : State) (bs : List Byte) (rest : List HostAction), s.rsp = [] →
    (s.host = bs.map (fun b => .send b false) → step s = .fault .waitingForFrame) ∧
    (s.host = bs.map (fun b => .send b false) ++ .take :: rest → step s = .fault .noResponseToTake)

/-- Reset, before a frame, inside an unfinished one or while a response is offered, leaves no schedule,
empty buffers and no response, keeps the parameters, and does not touch what has already left the core
(70_reset_and_hazards.md R220, R221; 10_state.md R34). `RK` is left open: it is a free value (log 6). -/
def Obligations.ResetDiscardsWhatIsInFlight : Prop :=
  ∀ (s : State) (bs : List Byte) (rest : List HostAction),
    (s.host = .reset :: rest ∨
      (s.rsp = [] ∧ s.host = bs.map (fun b => .send b false) ++ .reset :: rest)) →
    ∃ t, step s = .next t ∧ t.ksValid = false ∧ t.work.ibuf = [] ∧ t.work.obuf = [] ∧ t.rsp = [] ∧
      t.cfg = s.cfg ∧ t.host = rest ∧ t.sent = s.sent

/-- What the spec says of the state after reset: no schedule is held, the buffers are empty, no response
is being sent, and the core is ready for a frame (10_state.md R34, 70_reset_and_hazards.md R220). -/
def Obligations.ResetStateHoldsNoSchedule : Prop :=
  State.reset.ksValid = false ∧ State.reset.work.ibuf = [] ∧ State.reset.work.obuf = [] ∧
  State.reset.rsp = [] ∧ cmdReady State.reset = true ∧ rspValid State.reset = false

/-! ### The seven commands: where each completes, with what, and what it leaves alone -/

/-- `DERIVE_SCHEDULE` with a sixteen-byte key, any key at all, loads its whole expansion, sets
`KS_VALID`, and answers OK with no data; nothing else but the transient registers changes
(41_key_expansion.md R120). -/
def Obligations.DeriveScheduleLoadsTheExpansion : Prop :=
  ∀ (s : State) (key : List Byte), key.length = 16 →
    ∃ k, blockBytes k = key ∧
      exec (.deriveSchedule key) s =
        .next (answered { s with rk := keyExpansion k, ksValid := true } 0x00#8 [])

/-- With a key of any other length it answers `01 00000000`, and `RK` and `KS_VALID` keep their values
(41_key_expansion.md R121). -/
def Obligations.WrongKeyLengthLeavesTheSchedule : Prop :=
  ∀ (s : State) (key : List Byte), key.length ≠ 16 →
    ∃ t, exec (.deriveSchedule key) s = .next t ∧ t = answered s 0x01#8 [] ∧
      t.rsp = [0x01, 0, 0, 0, 0] ∧ t.rk = s.rk ∧ t.ksValid = s.ksValid

/-- `ENCRYPT_BLOCK` with a schedule held answers `Cipher(RK, BLOCK)` and changes nothing but the
transient registers (42_block_cipher.md R130). -/
def Obligations.EncryptBlockAnswersTheCipher : Prop :=
  ∀ (s : State) (block : Block), s.ksValid = true →
    exec (.encryptBlock block) s = .next (answered s 0x00#8 (blockBytes (cipher s.rk block)))

/-- `DECRYPT_BLOCK` with a schedule held answers `InvCipher(RK, BLOCK)` and changes nothing but the
transient registers (42_block_cipher.md R134). -/
def Obligations.DecryptBlockAnswersTheInverseCipher : Prop :=
  ∀ (s : State) (block : Block), s.ksValid = true →
    exec (.decryptBlock block) s = .next (answered s 0x00#8 (blockBytes (invCipher s.rk block)))

/-- `PAD` answers the data followed by `n` bytes of value `n`, with or without a schedule, and changes
nothing but the transient registers (43_padding.md R150, R151). -/
def Obligations.PadAnswersThePaddedData : Prop :=
  ∀ (s : State) (data : List Byte) (n : Nat), n = 16 - data.length % 16 →
    exec (.pad data) s = .next (answered s 0x00#8 (data ++ List.replicate n (BitVec.ofNat 8 n)))

/-- `UNPAD` of data that ends in `n` bytes, the last of value `n` in 1 to 16, and all of value `n` where
STRICT_UNPAD is 1, answers the data without them, with or without a schedule (43_padding.md R154 to
R156). -/
def Obligations.UnpadRemovesThePadding : Prop :=
  ∀ (s : State) (body tail : List Byte) (n : Nat), 1 ≤ n → n ≤ 16 → tail.length = n →
    tail.getLast? = some (BitVec.ofNat 8 n) →
    (s.cfg.strictUnpad = true → tail = List.replicate n (BitVec.ofNat 8 n)) →
      exec (.unpad (body ++ tail)) s = .next (answered s 0x00#8 body)

/-- `UNPAD`, and `CBC_DECRYPT` after all blocks have been decrypted, answer InvalidPadding, with no data
and no state change, exactly in the cases of 60_exceptions.md R200. -/
def Obligations.UnpadRejectsExactlyBadPadding : Prop :=
  ∀ (s : State),
    (∀ data, exec (.unpad data) s = .next (answered s 0x04#8 []) ↔
      badPadding s.cfg.strictUnpad data) ∧
    ∀ (v : Block) (data : List Byte), s.ksValid = true → data.length ≠ 0 → data.length % 16 = 0 →
      (exec (.cbcDecrypt (blockBytes v) data) s = .next (answered s 0x04#8 []) ↔
        badPadding s.cfg.strictUnpad (joinBlocks (cbcPlainBlocks s.rk v (bufBlocks data))))

/-- `CBC_ENCRYPT` with a schedule held and a sixteen-byte IV answers the chained ciphertext of the
equations: the run of the chaining unit's registers (BLK, CHAIN, ST, OBUF) computes
`C[i] = Cipher(RK, P[i] xor C[i-1])` over the padded data (44_cbc.md R168, R170). -/
def Obligations.CbcEncryptAnswersTheEquations : Prop :=
  ∀ (s : State) (iv data : List Byte), s.ksValid = true → iv.length = 16 →
    ∃ v, blockBytes v = iv ∧
      exec (.cbcEncrypt iv data) s = .next (answered s 0x00#8 (cbcEncrypt s.rk v data))

/-- `CBC_DECRYPT` with a schedule held, a sixteen-byte IV and data that the equations decrypt and unpad
to `d` answers `d`: the run of the registers (BLK, CTSAVE, CHAIN, ST, OBUF) computes
`Q[i] = InvCipher(RK, C[i]) xor C[i-1]` and then `unpad` (44_cbc.md R173, R175). -/
def Obligations.CbcDecryptAnswersTheEquations : Prop :=
  ∀ (s : State) (v : Block) (data d : List Byte), s.ksValid = true →
    cbcDecrypt s.cfg.strictUnpad s.rk v data = .ok d →
      exec (.cbcDecrypt (blockBytes v) data) s = .next (answered s 0x00#8 d)

/-- The commands that need the schedule answer `05 00000000` when none is held, whatever their operands,
and change no persistent state; with a schedule held they never do, and the other three never do
(60_exceptions.md R194, and R197: NoSchedule before the operand errors). -/
def Obligations.NoScheduleExactlyWhenNoneIsHeld : Prop :=
  ∀ (i : Instr) (s : State),
    (needsSchedule i = true → s.ksValid = false →
      exec i s = .next (answered s 0x05#8 []) ∧ (answered s 0x05#8 []).rsp = [0x05, 0, 0, 0, 0]) ∧
    ((needsSchedule i = false ∨ s.ksValid = true) →
      ∀ t, exec i s = .next t → t.rsp ≠ [0x05, 0, 0, 0, 0])

/-- `CBC_ENCRYPT` with a schedule held and an IV of another length answers `02 00000000`, whatever the
data, and nothing is encrypted; `IVLEN = 0` is a well-formed frame (44_cbc.md R169). -/
def Obligations.CbcEncryptRejectsWrongIvLength : Prop :=
  (∀ (s : State) (iv data : List Byte), s.ksValid = true → iv.length ≠ 16 →
    ∃ t, exec (.cbcEncrypt iv data) s = .next t ∧ t = answered s 0x02#8 [] ∧
      t.rsp = [0x02, 0, 0, 0, 0]) ∧
  ∀ (c : Config) (data : List Byte), data.length ≤ c.maxDataLen → data.length < 4294967296 →
    decode c (0x06#8 :: 0 :: 0 :: 0 :: 0 :: (be32 data.length ++ data)) = .ok (.cbcEncrypt [] data)

/-- `CBC_DECRYPT` with a schedule held reports the first error that applies, in the order IV length,
ciphertext length, padding (60_exceptions.md R197), and releases no byte of the decrypted data
(44_cbc.md R177). -/
def Obligations.CbcDecryptReportsErrorsInOrder : Prop :=
  ∀ (s : State) (iv data : List Byte), s.ksValid = true →
    (iv.length ≠ 16 → exec (.cbcDecrypt iv data) s = .next (answered s 0x02#8 [])) ∧
    (iv.length = 16 → (data.length = 0 ∨ data.length % 16 ≠ 0) →
      exec (.cbcDecrypt iv data) s = .next (answered s 0x03#8 [])) ∧
    (∀ v, blockBytes v = iv → data.length ≠ 0 → data.length % 16 = 0 →
      unpad s.cfg.strictUnpad (joinBlocks (cbcPlainBlocks s.rk v (bufBlocks data))) = none →
      exec (.cbcDecrypt iv data) s = .next (answered s 0x04#8 []))

/-- A block step of the chaining unit, register by register, at both settings of the XOR arbiter
(44_cbc.md R166, R176): at `PRE` the exclusive or of the plaintext block and CHAIN goes into the cipher
and CHAIN takes the block produced; at `POST` the exclusive or of the inverse cipher's output and the
old CHAIN goes to OBUF and CHAIN takes the ciphertext block, held in CTSAVE. -/
def Obligations.ArbiterSettingsFollowTheTable : Prop :=
  ∀ (rk : Schedule) (w : Work) (i : Nat) (x : Block), x = bufBlock w.ibuf i →
    chainStep .pre rk w i =
      { w with blk := i, st := cipherState rk (x.xor w.chain), rnd := 10,
               obuf := w.obuf ++ blockBytes (cipher rk (x.xor w.chain)),
               chain := cipher rk (x.xor w.chain) } ∧
    chainStep .post rk w i =
      { w with blk := i, ctsave := x, st := invCipherState rk x, rnd := 0,
               obuf := w.obuf ++ blockBytes ((invCipher rk x).xor w.chain),
               chain := x }

/-! ### The whole machine -/

/-- The parameters stay legal, a held schedule stays the expansion of its first round key, the transient
registers and the response stay within their sizes, from every state in which they are so (10_state.md
R23, sections 1 and 3; the limit of the response from 30_encoding.md R69 and R72). -/
def Obligations.InvariantIsKeptByEveryStep : Prop :=
  ∀ s t : State, Inv s → step s = .next t → Inv t

/-- The invariant holds right after reset (10_state.md R34). The clause on the parameters rests on the
model's choice of log 2, those on RND and BLK on log 4. -/
def Obligations.InvariantHoldsAtReset : Prop := Inv State.reset

/-- A step changes (`KS_VALID`, `RK`) only by reset, after which no schedule is held, or by running a
`DERIVE_SCHEDULE` with a sixteen-byte key, after which exactly its expansion is held; so `KS_VALID` once
set stays set until reset (10_state.md R20, R22). -/
def Obligations.OnlyDeriveScheduleOrResetChangesTheSchedule : Prop :=
  ∀ s t : State, step s = .next t →
    (t.ksValid = s.ksValid ∧ t.rk = s.rk) ∨
    (∃ rest, nextArrival s = .reset rest ∧ t.ksValid = false) ∨
    (∃ f rest k, nextArrival s = .frame f rest ∧
      decode s.cfg f = .ok (.deriveSchedule (blockBytes k)) ∧ t.ksValid = true ∧ t.rk = keyExpansion k)

/-- The frame of every command: the parameters, what the host is about to do and what has left the core
are untouched; every command but `DERIVE_SCHEDULE` keeps `RK` and `KS_VALID`; the transient registers
are left at unspecified values (10_state.md R22, R28, R31). -/
def Obligations.CommandsLeaveTheRestAlone : Prop :=
  ∀ (i : Instr) (s t : State), exec i s = .next t →
    t.cfg = s.cfg ∧ t.host = s.host ∧ t.sent = s.sent ∧
    t.work = freeWork s.cfg s.freeCount ∧ t.freeCount = s.freeCount + s.cfg.nInst ∧
    ((∀ key, i ≠ .deriveSchedule key) → t.rk = s.rk ∧ t.ksValid = s.ksValid)

/-- Every command, in every state, is answered by one response frame whose status is one of 0x00 to
0x06 and which carries data only when the status is OK (00_scope.md R15, 30_encoding.md R72 to R74). -/
def Obligations.EveryCommandIsAnsweredOnce : Prop :=
  ∀ (i : Instr) (s : State), ∃ t status data, exec i s = .next t ∧
    t.rsp = status :: (be32 data.length ++ data) ∧ status.toNat ≤ 6 ∧ (status ≠ 0x00#8 → data = [])

/-- With legal parameters the result of every command that has a frame fits the response's length field:
at most `MAX_DATA_LEN + 16` bytes, below 2^32 (30_encoding.md R69, 40_field_and_tables.md R109). -/
def Obligations.ResultsFitTheResponseLengthField : Prop :=
  ∀ (i : Instr) (s t : State), s.cfg.wf → i.wellFormed s.cfg = true → exec i s = .next t →
    ∃ status data, t.rsp = status :: (be32 data.length ++ data) ∧
      data.length ≤ s.cfg.maxDataLen + 16 ∧ data.length < 4294967296

/-- A command that answers an error leaves no trace: the persistent state is as before, and every next
command gives the response and the persistent state it would have given without it (60_exceptions.md
R196, R199). -/
def Obligations.FailedCommandLeavesNoTrace : Prop :=
  ∀ (i j : Instr) (s t : State), exec i s = .next t → t.rsp.head? ≠ some 0x00#8 →
    persistent t = persistent s ∧
    ∃ u v, exec j t = .next u ∧ exec j s = .next v ∧ u.rsp = v.rsp ∧ persistent u = persistent v

/-- Two instances that differ only in transient registers, and in `RK` while no schedule is held, make
the same steps as far as the host can see, and go on differing only so: no response depends on them
(10_state.md R21, R28; 70_reset_and_hazards.md R222). -/
def Obligations.HiddenStateIsNeverObserved : Prop :=
  ∀ s t : State, SameToHost s t →
    (∃ s' t', step s = .next s' ∧ step t = .next t' ∧ SameToHost s' t') ∨
    (∃ why, step s = .fault why ∧ step t = .fault why)

/-- The machine with its registers and ports refines the dispatch function of 30_encoding.md R76 on the
pair (`KS_VALID`, `RK`): for every whole frame, well formed or not, one step answers the response that
function gives and holds the persistent state it gives. The clauses on `host` and `sent` are on the
model's own fields (logs 1 and 9), not on R76. -/
def Obligations.StepRefinesTheDispatchFunction : Prop :=
  ∀ (s : State) (f : List Byte) (rest : List HostAction),
    s.rsp = [] → f ≠ [] → s.host = sendFrame f ++ rest →
    ∃ t, step s = .next t ∧ t.rsp = outcomeFrame (frameOutcome s.cfg (persistent s) f) ∧
      persistent t = framePersistent s.cfg (persistent s) f ∧
      t.cfg = s.cfg ∧ t.host = rest ∧ t.sent = s.sent

/-- A host that sends any frames one after another and takes each response before the next gets, on the
response port, exactly the responses of the dispatch function, in order, each with its last byte marked,
and the core ends in the persistent state that function gives (20_memory.md R50, 30_encoding.md R61). -/
def Obligations.SessionDeliversTheResponsesInOrder : Prop :=
  ∀ (s : State) (fs : List (List Byte)) (rest : List HostAction), s.rsp = [] →
    (∀ f ∈ fs, f ≠ []) →
    s.host = sessionActions s.cfg (persistent s) fs ++ rest →
    ∃ t, Sys2Proof.core.run (sessionSteps s.cfg (persistent s) fs) s = .next t ∧
      t.sent = s.sent ++ sessionSent s.cfg (persistent s) fs ∧
      persistent t = sessionPersistent s.cfg (persistent s) fs ∧ t.rsp = [] ∧ t.host = rest

/-- Instances share nothing: a step of one leaves every other as it is, steps of two instances give the
same system in either order, and an instance in a system steps exactly as it steps alone (20_memory.md
R51, 60_exceptions.md R212). -/
def Obligations.InstancesDoNotInterfere : Prop :=
  (∀ (y z : System) (i j : Nat), stepInstance i y = some z → j ≠ i → z[j]? = y[j]?) ∧
  (∀ (y x z : System) (i j : Nat), i ≠ j → stepInstance i y = some z → stepInstance j y = some x →
    ∃ u, stepInstance j z = some u ∧ stepInstance i x = some u) ∧
  ∀ (y z : System) (i : Nat), stepInstance i y = some z ↔
    ∃ s t, y[i]? = some s ∧ step s = .next t ∧ z = y.set i t

/-! ### The field and the tables (40_field_and_tables.md) -/

/-- The laws of `gmul`, the constant multiples and the examples (40_field_and_tables.md R92). -/
def Obligations.FieldMultiplicationLaws : Prop :=
  (∀ a b : Byte, gmul a b = gmul b a) ∧
  (∀ a b c : Byte, gmul (gmul a b) c = gmul a (gmul b c)) ∧
  (∀ a b c : Byte, gmul a (b ^^^ c) = gmul a b ^^^ gmul a c) ∧
  (∀ a : Byte, gmul a 0x01 = a ∧ gmul a 0x00 = 0x00) ∧
  (∀ a b : Byte, gmul a b = 0x00 → a = 0x00 ∨ b = 0x00) ∧
  (∀ a : Byte,
    gmul 0x02 a = xtime a ∧ gmul 0x03 a = xtime a ^^^ a ∧
    gmul 0x09 a = xtime (xtime (xtime a)) ^^^ a ∧
    gmul 0x0b a = xtime (xtime (xtime a)) ^^^ xtime a ^^^ a ∧
    gmul 0x0d a = xtime (xtime (xtime a)) ^^^ xtime (xtime a) ^^^ a ∧
    gmul 0x0e a = xtime (xtime (xtime a)) ^^^ xtime (xtime a) ^^^ xtime a) ∧
  gmul 0x57 0x83 = 0xc1 ∧ gmul 0x57 0x13 = 0xfe ∧ gmul 0x53 0xca = 0x01 ∧ gmul 0xff 0xff = 0x13

/-- `ginv` gives the one inverse of every byte but zero, is `a^254`, and maps zero to zero; with the
examples (40_field_and_tables.md R93). -/
def Obligations.FieldInverseIsTheInverse : Prop :=
  (∀ a : Byte, a ≠ 0x00 → gmul a (ginv a) = 0x01 ∧ ∀ b : Byte, gmul a b = 0x01 → b = ginv a) ∧
  ginv 0x00 = 0x00 ∧ (∀ a : Byte, ginv a = (List.replicate 254 a).foldl gmul 0x01) ∧
  ginv 0x01 = 0x01 ∧ ginv 0x02 = 0x8d ∧ ginv 0x53 = 0xca ∧ ginv 0xff = 0x1c

/-- The table of `SBOX` is what the definition gives, entry for entry, and has no fixed point and no
opposite fixed point (40_field_and_tables.md R94, R95). -/
def Obligations.SboxTableIsItsDefinition : Prop :=
  ∀ x : Byte, sbox x = sboxFormula x ∧ sbox x ≠ x ∧ sbox x ≠ x ^^^ 0xff#8

/-- `INV_SBOX[y]` is the one `x` with `SBOX[x] = y`, and is what its arithmetic form gives
(40_field_and_tables.md R96). -/
def Obligations.InverseSboxUndoesSbox : Prop :=
  (∀ x : Byte, invSbox (sbox x) = x) ∧ (∀ y : Byte, sbox (invSbox y) = y) ∧
  (∀ x y : Byte, sbox x = y → x = invSbox y) ∧ (∀ y : Byte, invSbox y = invSboxFormula y)

/-- The round constants, their recurrence and the word they make (40_field_and_tables.md R98). -/
def Obligations.RoundConstantsArePowersOfX : Prop :=
  [1, 2, 3, 4, 5, 6, 7, 8, 9, 10].map rcon =
    [0x01, 0x02, 0x04, 0x08, 0x10, 0x20, 0x40, 0x80, 0x1b, 0x36] ∧
  rcon 1 = 0x01 ∧ (∀ j, 2 ≤ j → rcon j = xtime (rcon (j - 1))) ∧
  ∀ j, 1 ≤ j → rconWord j = ⟨rcon j, 0, 0, 0⟩

/-- A block is loaded into the state column by column and unloaded by the same map
(40_field_and_tables.md R99). -/
def Obligations.StateIsLoadedByColumns : Prop :=
  ∀ (b : Block) (r c : Nat), r < 4 → c < 4 →
    stateAt (loadState b) r c = blockByte b (r + 4 * c) ∧
    blockByte (unloadState b) (r + 4 * c) = stateAt b r c

/-- `ShiftRows` rotates row `r` left by `r` and `InvShiftRows` right by `r`, in all the forms the spec
gives, with its example (40_field_and_tables.md R102, R105). -/
def Obligations.ShiftRowsRotatesRowByItsNumber : Prop :=
  (∀ (st : Block) (r c : Nat), r < 4 → c < 4 →
    stateAt (shiftRows st) r c = stateAt st r ((c + r) % 4) ∧
    stateAt (invShiftRows st) r ((c + r) % 4) = stateAt st r c ∧
    stateAt (invShiftRows st) r c = stateAt st r ((c + 4 - r) % 4)) ∧
  (∀ (st : Block) (i : Nat), i < 16 →
    blockByte (shiftRows st) i = blockByte st ((i + 4 * (i % 4)) % 16) ∧
    blockByte (invShiftRows st) i = blockByte st ((i + 12 * (i % 4)) % 16)) ∧
  shiftRows
      ⟨⟨0x63, 0xca, 0xb7, 0x04⟩, ⟨0x09, 0x53, 0xd0, 0x51⟩, ⟨0xcd, 0x60, 0xe0, 0xe7⟩,
        ⟨0xba, 0x70, 0xe1, 0x8c⟩⟩ =
    ⟨⟨0x63, 0x53, 0xe0, 0x8c⟩, ⟨0x09, 0x60, 0xe1, 0x04⟩, ⟨0xcd, 0x70, 0xb7, 0x51⟩,
      ⟨0xba, 0xca, 0xd0, 0xe7⟩⟩

/-- Each round primitive and its inverse undo each other in both orders, and the byte and position steps
commute (40_field_and_tables.md R107). -/
def Obligations.RoundPrimitivesUndoEachOther : Prop :=
  ∀ st k : Block,
    invSubBytes (subBytes st) = st ∧ subBytes (invSubBytes st) = st ∧
    invShiftRows (shiftRows st) = st ∧ shiftRows (invShiftRows st) = st ∧
    invMixColumns (mixColumns st) = st ∧ mixColumns (invMixColumns st) = st ∧
    addRoundKey (addRoundKey st k) k = st ∧
    subBytes (shiftRows st) = shiftRows (subBytes st) ∧
    invSubBytes (invShiftRows st) = invShiftRows (invSubBytes st)

/-! ### Key expansion (41_key_expansion.md) -/

/-- The 44 words of a schedule follow the recurrence, and its bytes follow the byte form
(41_key_expansion.md R123). -/
def Obligations.KeyExpansionFollowsTheRecurrence : Prop :=
  ∀ (key : Block) (rk : Schedule), rk = keyExpansion key →
    (∀ i, i < 4 → scheduleWord rk i = blockWord key i) ∧
    (∀ i, 4 ≤ i → i < 44 → scheduleWord rk i =
      (scheduleWord rk (i - 4)).xor
        (if i % 4 = 0 then (subWord (rotWord (scheduleWord rk (i - 1)))).xor (rconWord (i / 4))
         else scheduleWord rk (i - 1))) ∧
    (∀ r, 1 ≤ r → r ≤ 10 → ∀ p q, p = scheduleKey rk (r - 1) → q = scheduleKey rk r →
      blockByte q 0 = blockByte p 0 ^^^ sbox (blockByte p 13) ^^^ rcon r ∧
      blockByte q 1 = blockByte p 1 ^^^ sbox (blockByte p 14) ∧
      blockByte q 2 = blockByte p 2 ^^^ sbox (blockByte p 15) ∧
      blockByte q 3 = blockByte p 3 ^^^ sbox (blockByte p 12) ∧
      ∀ j, 4 ≤ j → j < 16 → blockByte q j = blockByte p j ^^^ blockByte q (j - 4))

/-- The first round key is the key, and the key can be read back from any single round key: two keys
with one round key in common are equal (41_key_expansion.md R124 (a), (c)). -/
def Obligations.EveryRoundKeyDeterminesTheKey : Prop :=
  (∀ key : Block, scheduleKey (keyExpansion key) 0 = key) ∧
  ∀ (key key' : Block) (r : Nat), r ≤ 10 →
    scheduleKey (keyExpansion key) r = scheduleKey (keyExpansion key') r → key = key'

/-! ### The block cipher (42_block_cipher.md) -/

/-- The core correctness law, for eleven arbitrary round keys and at command level (42_block_cipher.md
R140). -/
def Obligations.DecryptUndoesEncrypt : Prop :=
  (∀ (rk : Schedule) (b : Block), invCipher rk (cipher rk b) = b) ∧
  ∀ (s : State) (b c : Block), s.ksValid = true →
    exec (.encryptBlock b) s = .next (answered s 0x00#8 (blockBytes c)) →
      exec (.decryptBlock c) s = .next (answered s 0x00#8 (blockBytes b))

/-- The converse law: the cipher is a permutation of the blocks (42_block_cipher.md R141). -/
def Obligations.EncryptUndoesDecrypt : Prop :=
  (∀ (rk : Schedule) (c : Block), cipher rk (invCipher rk c) = c) ∧
  (∀ (rk : Schedule) (b b' : Block), cipher rk b = cipher rk b' → b = b') ∧
  ∀ (s : State) (b c : Block), s.ksValid = true →
    exec (.decryptBlock c) s = .next (answered s 0x00#8 (blockBytes b)) →
      exec (.encryptBlock b) s = .next (answered s 0x00#8 (blockBytes c))

/-- The source's known answer (42_block_cipher.md R142). -/
def Obligations.KnownAnswerOfTheSource : Prop :=
  cipher
    (keyExpansion ⟨⟨0x00, 0x01, 0x02, 0x03⟩, ⟨0x04, 0x05, 0x06, 0x07⟩, ⟨0x08, 0x09, 0x0a, 0x0b⟩,
      ⟨0x0c, 0x0d, 0x0e, 0x0f⟩⟩)
    ⟨⟨0x00, 0x11, 0x22, 0x33⟩, ⟨0x44, 0x55, 0x66, 0x77⟩, ⟨0x88, 0x99, 0xaa, 0xbb⟩,
      ⟨0xcc, 0xdd, 0xee, 0xff⟩⟩ =
  ⟨⟨0x69, 0xc4, 0xe0, 0xd8⟩, ⟨0x6a, 0x7b, 0x04, 0x30⟩, ⟨0xd8, 0xcd, 0xb7, 0x80⟩,
    ⟨0x70, 0xb4, 0xc5, 0x5a⟩⟩

/-! ### Padding (43_padding.md) -/

/-- The properties (a) to (g) of `pad` (43_padding.md R152). -/
def Obligations.PadHasTheStatedProperties : Prop :=
  (∀ (data : List Byte) (n : Nat), n = 16 - data.length % 16 →
    (pad data).length = data.length + n ∧ 1 ≤ n ∧ n ≤ 16 ∧
    (pad data).length % 16 = 0 ∧ (pad data).length = (data.length / 16 + 1) * 16 ∧
    16 ≤ (pad data).length ∧
    (pad data).getLast? = some (BitVec.ofNat 8 n) ∧
    (pad data).drop data.length = List.replicate n (BitVec.ofNat 8 n) ∧
    (pad data).take data.length = data) ∧
  ∀ data data' : List Byte, pad data = pad data' → data = data'

/-- `unpad` undoes `pad` under both settings, also at command level; and strictly, whatever `unpad`
accepts at a non-zero multiple of 16 is `pad` of its result (43_padding.md R159). -/
def Obligations.UnpadUndoesPad : Prop :=
  (∀ (strict : Bool) (data : List Byte), unpad strict (pad data) = some data) ∧
  (∀ (s u : State) (d p : List Byte), exec (.pad d) s = .next (answered s 0x00#8 p) →
    exec (.unpad p) u = .next (answered u 0x00#8 d)) ∧
  ∀ x d : List Byte, x.length ≠ 0 → x.length % 16 = 0 → unpad true x = some d → pad d = x

/-- What STRICT_UNPAD decides, on a buffer whose last byte passes the range checks: strict `unpad`
raises where some one of the `n` trailing bytes differs, lax `unpad` removes them whatever they hold. So
whenever strict `unpad` returns a value lax `unpad` returns the same, and lax `unpad` raises only when
strict `unpad` does; with the example of the difference (43_padding.md R156). -/
def Obligations.StrictUnpadOnlyRejectsMore : Prop :=
  (∀ (x : List Byte) (b : Byte), x.getLast? = some b → 1 ≤ b.toNat → b.toNat ≤ 16 →
    b.toNat ≤ x.length →
    unpad false x = some (x.take (x.length - b.toNat)) ∧
    ((∃ y ∈ x.drop (x.length - b.toNat), y ≠ b) → unpad true x = none)) ∧
  (∀ x d : List Byte, unpad true x = some d → unpad false x = some d) ∧
  (∀ x : List Byte, unpad false x = none → unpad true x = none) ∧
  unpad true (List.replicate 12 0x41 ++ [0x01, 0x02, 0x03, 0x04]) = none ∧
  unpad false (List.replicate 12 0x41 ++ [0x01, 0x02, 0x03, 0x04]) = some (List.replicate 12 0x41)

/-! ### CBC (44_cbc.md) -/

/-- The properties (a) to (d) of `cbc_encrypt`: its length, what block `i` depends on, and that it is
injective in the plaintext (44_cbc.md R171). -/
def Obligations.CbcEncryptHasTheStatedProperties : Prop :=
  (∀ (rk : Schedule) (iv : Block) (pt : List Byte),
    (cbcEncrypt rk iv pt).length = (pad pt).length ∧
    (cbcEncrypt rk iv pt).length = (pt.length / 16 + 1) * 16 ∧
    16 ≤ (cbcEncrypt rk iv pt).length ∧ (cbcEncrypt rk iv pt).length % 16 = 0) ∧
  (∀ (rk : Schedule) (iv : Block) (pt pt' : List Byte) (i : Nat),
    (bufBlocks (pad pt)).take (i + 1) = (bufBlocks (pad pt')).take (i + 1) →
    (bufBlocks (cbcEncrypt rk iv pt)).take (i + 1) = (bufBlocks (cbcEncrypt rk iv pt')).take (i + 1)) ∧
  ∀ (rk : Schedule) (iv : Block) (pt pt' : List Byte),
    cbcEncrypt rk iv pt = cbcEncrypt rk iv pt' → pt = pt'

/-- A change of plaintext that begins in padded block `j` leaves the earlier ciphertext blocks, changes
block `j`, and goes on changing every later block at which the plaintexts agree and the ciphertext
block before differs; so a change confined to block `j` changes that block and all later ones
(44_cbc.md R172). -/
def Obligations.PlaintextChangeDiffusesForward : Prop :=
  ∀ (rk : Schedule) (iv : Block) (pt pt' : List Byte) (j : Nat) (P P' C C' : List Block),
    pt.length = pt'.length → P = bufBlocks (pad pt) → P' = bufBlocks (pad pt') →
    C = bufBlocks (cbcEncrypt rk iv pt) → C' = bufBlocks (cbcEncrypt rk iv pt') →
    (∀ i, i < j → P[i]? = P'[i]?) → P[j]? ≠ P'[j]? →
    (∀ i, i < j → C[i]? = C'[i]?) ∧ C[j]? ≠ C'[j]? ∧
    (∀ i, j < i → i < P.length → P[i]? = P'[i]? → C[i - 1]? ≠ C'[i - 1]? → C[i]? ≠ C'[i]?) ∧
    ((∀ i, j < i → P[i]? = P'[i]?) → ∀ i, j ≤ i → i < P.length → C[i]? ≠ C'[i]?)

/-- The round-trip law, for every schedule, IV, plaintext and setting of STRICT_UNPAD, and at command
level, with the proviso under which the ciphertext has a frame and where that holds (44_cbc.md R180). -/
def Obligations.CbcDecryptUndoesCbcEncrypt : Prop :=
  (∀ (strict : Bool) (rk : Schedule) (iv : Block) (pt : List Byte),
    cbcDecrypt strict rk iv (cbcEncrypt rk iv pt) = .ok pt) ∧
  ∀ (s u : State) (iv p c : List Byte), s.ksValid = true → u.ksValid = true → u.rk = s.rk →
    s.cfg.wf → exec (.cbcEncrypt iv p) s = .next (answered s 0x00#8 c) →
      (p.length + 16 ≤ s.cfg.maxDataLen → c.length ≤ s.cfg.maxDataLen) ∧
      (c.length ≤ s.cfg.maxDataLen →
        (Instr.cbcDecrypt iv c).wellFormed s.cfg = true ∧
        exec (.cbcDecrypt iv c) u = .next (answered u 0x00#8 p))

/-- A wrong IV alone, on a ciphertext of more than one block, is answered OK with only the first block
of the plaintext wrong (44_cbc.md R173, corner cases). -/
def Obligations.WrongIvSpoilsOnlyTheFirstBlock : Prop :=
  ∀ (s : State) (v v' : Block) (ct d : List Byte), s.ksValid = true → 16 < ct.length →
    exec (.cbcDecrypt (blockBytes v) ct) s = .next (answered s 0x00#8 d) →
    ∃ d', exec (.cbcDecrypt (blockBytes v') ct) s = .next (answered s 0x00#8 d') ∧
      d'.length = d.length ∧ d'.drop 16 = d.drop 16 ∧
      (bufBlock d' 0).xor v' = (bufBlock d 0).xor v

/-- A host gets the same bytes from the block commands and `PAD` or `UNPAD`, doing the exclusive or
itself, as from `CBC_ENCRYPT` and `CBC_DECRYPT`; and the empty message is one block, the cipher of the
IV and a full block of padding (44_cbc.md R181). -/
def Obligations.BlockCommandsAloneMakeCbc : Prop :=
  (∀ (s : State) (v : Block) (p : List Byte), s.ksValid = true →
    ∃ padded c, exec (.pad p) s = .next (answered s 0x00#8 padded) ∧
      hostCipherBlocks s v (bufBlocks padded) = some c ∧
      exec (.cbcEncrypt (blockBytes v) p) s = .next (answered s 0x00#8 c)) ∧
  (∀ (s : State) (v : Block) (ct : List Byte), s.ksValid = true → ct.length ≠ 0 →
    ct.length % 16 = 0 →
    ∃ q, hostPlainBlocks s v (bufBlocks ct) = some q ∧
      exec (.cbcDecrypt (blockBytes v) ct) s = exec (.unpad q) s) ∧
  ∀ (rk : Schedule) (iv : Block),
    cbcEncrypt rk iv [] = blockBytes (cipher rk (iv.xor fullPadBlock))
end

