-- ==== Sys2Proof/Laws/State.lean ====
section
/-! SUPPORT. What each named update of a state or of the transient registers does to each field. -/

namespace Sys2Proof.Machine

open Sys2Proof

/-- The index of the next free values (log 5). -/
@[simp] theorem nextFree_eq (s : State) : nextFree s = s.freeCount + s.cfg.nInst := rfl

section releaseWork
variable  (s : State)

@[simp] theorem releaseWork_cfg : (releaseWork s).cfg = s.cfg := rfl
@[simp] theorem releaseWork_ksValid : (releaseWork s).ksValid = s.ksValid := rfl
@[simp] theorem releaseWork_rk : (releaseWork s).rk = s.rk := rfl
@[simp] theorem releaseWork_work : (releaseWork s).work = freeWork s.cfg s.freeCount := rfl
@[simp] theorem releaseWork_rsp : (releaseWork s).rsp = s.rsp := rfl
@[simp] theorem releaseWork_host : (releaseWork s).host = s.host := rfl
@[simp] theorem releaseWork_sent : (releaseWork s).sent = s.sent := rfl
@[simp] theorem releaseWork_freeCount : (releaseWork s).freeCount = s.freeCount + s.cfg.nInst := rfl

end releaseWork

section respond
variable (status : Byte) (rdata : List Byte) (s : State)

@[simp] theorem respond_cfg : (respond status rdata s).cfg = s.cfg := rfl
@[simp] theorem respond_ksValid : (respond status rdata s).ksValid = s.ksValid := rfl
@[simp] theorem respond_rk : (respond status rdata s).rk = s.rk := rfl
@[simp] theorem respond_work : (respond status rdata s).work = freeWork s.cfg s.freeCount := rfl
@[simp] theorem respond_rsp : (respond status rdata s).rsp = responseFrame status rdata := rfl
@[simp] theorem respond_host : (respond status rdata s).host = s.host := rfl
@[simp] theorem respond_sent : (respond status rdata s).sent = s.sent := rfl
@[simp] theorem respond_freeCount : (respond status rdata s).freeCount = s.freeCount + s.cfg.nInst := rfl

end respond

section answered
variable (status : Byte) (data : List Byte) (s : State)

@[simp] theorem answered_cfg : (answered s status data).cfg = s.cfg := rfl
@[simp] theorem answered_ksValid : (answered s status data).ksValid = s.ksValid := rfl
@[simp] theorem answered_rk : (answered s status data).rk = s.rk := rfl
@[simp] theorem answered_work : (answered s status data).work = freeWork s.cfg s.freeCount := rfl
@[simp] theorem answered_rsp : (answered s status data).rsp = status :: (be32 data.length ++ data) := rfl
@[simp] theorem answered_host : (answered s status data).host = s.host := rfl
@[simp] theorem answered_sent : (answered s status data).sent = s.sent := rfl
@[simp] theorem answered_freeCount : (answered s status data).freeCount = s.freeCount + s.cfg.nInst := rfl

end answered

section loadSchedule
variable (rk : Schedule) (s : State)

@[simp] theorem loadSchedule_cfg : (loadSchedule rk s).cfg = s.cfg := rfl
@[simp] theorem loadSchedule_ksValid : (loadSchedule rk s).ksValid = true := rfl
@[simp] theorem loadSchedule_rk : (loadSchedule rk s).rk = rk := rfl
@[simp] theorem loadSchedule_work : (loadSchedule rk s).work = s.work := rfl
@[simp] theorem loadSchedule_rsp : (loadSchedule rk s).rsp = s.rsp := rfl
@[simp] theorem loadSchedule_host : (loadSchedule rk s).host = s.host := rfl
@[simp] theorem loadSchedule_sent : (loadSchedule rk s).sent = s.sent := rfl
@[simp] theorem loadSchedule_freeCount : (loadSchedule rk s).freeCount = s.freeCount := rfl

end loadSchedule

section transferByte
variable (b : Byte) (more : List Byte) (s : State)

@[simp] theorem transferByte_cfg : (transferByte b more s).cfg = s.cfg := rfl
@[simp] theorem transferByte_ksValid : (transferByte b more s).ksValid = s.ksValid := rfl
@[simp] theorem transferByte_rk : (transferByte b more s).rk = s.rk := rfl
@[simp] theorem transferByte_work : (transferByte b more s).work = s.work := rfl
@[simp] theorem transferByte_rsp : (transferByte b more s).rsp = more := rfl
@[simp] theorem transferByte_host : (transferByte b more s).host = s.host := rfl
@[simp] theorem transferByte_sent : (transferByte b more s).sent = s.sent ++ [⟨b, more.isEmpty⟩] := rfl
@[simp] theorem transferByte_freeCount : (transferByte b more s).freeCount = s.freeCount := rfl

end transferByte

section resetCore
variable  (s : State)

@[simp] theorem resetCore_cfg : (resetCore s).cfg = s.cfg := rfl
@[simp] theorem resetCore_ksValid : (resetCore s).ksValid = false := rfl
@[simp] theorem resetCore_rk : (resetCore s).rk = Config.freeSchedule s.freeCount := rfl
@[simp] theorem resetCore_work : (resetCore s).work = { freeWork s.cfg s.freeCount with ibuf := [], obuf := [] } := rfl
@[simp] theorem resetCore_rsp : (resetCore s).rsp = [] := rfl
@[simp] theorem resetCore_host : (resetCore s).host = s.host := rfl
@[simp] theorem resetCore_sent : (resetCore s).sent = s.sent := rfl
@[simp] theorem resetCore_freeCount : (resetCore s).freeCount = s.freeCount + s.cfg.nInst := rfl

end resetCore

section withCommandFrame
variable (f : List Byte) (s : State)

@[simp] theorem withCommandFrame_cfg : (withCommandFrame s f).cfg = s.cfg := rfl
@[simp] theorem withCommandFrame_ksValid : (withCommandFrame s f).ksValid = s.ksValid := rfl
@[simp] theorem withCommandFrame_rk : (withCommandFrame s f).rk = s.rk := rfl
@[simp] theorem withCommandFrame_work : (withCommandFrame s f).work = s.work := rfl
@[simp] theorem withCommandFrame_rsp : (withCommandFrame s f).rsp = [] := rfl
@[simp] theorem withCommandFrame_host : (withCommandFrame s f).host = sendFrame f ++ s.host := rfl
@[simp] theorem withCommandFrame_sent : (withCommandFrame s f).sent = s.sent := rfl
@[simp] theorem withCommandFrame_freeCount : (withCommandFrame s f).freeCount = s.freeCount := rfl

end withCommandFrame

section appendOut
variable (v : List Byte) (w : Work)

@[simp] theorem appendOut_keyin : (appendOut v w).keyin = w.keyin := rfl
@[simp] theorem appendOut_st : (appendOut v w).st = w.st := rfl
@[simp] theorem appendOut_rnd : (appendOut v w).rnd = w.rnd := rfl
@[simp] theorem appendOut_chain : (appendOut v w).chain = w.chain := rfl
@[simp] theorem appendOut_ctsave : (appendOut v w).ctsave = w.ctsave := rfl
@[simp] theorem appendOut_blk : (appendOut v w).blk = w.blk := rfl
@[simp] theorem appendOut_ibuf : (appendOut v w).ibuf = w.ibuf := rfl
@[simp] theorem appendOut_obuf : (appendOut v w).obuf = w.obuf ++ v := rfl

end appendOut

section loadBuffers
variable (data : List Byte) (w : Work)

@[simp] theorem loadBuffers_keyin : (loadBuffers data w).keyin = w.keyin := rfl
@[simp] theorem loadBuffers_st : (loadBuffers data w).st = w.st := rfl
@[simp] theorem loadBuffers_rnd : (loadBuffers data w).rnd = w.rnd := rfl
@[simp] theorem loadBuffers_chain : (loadBuffers data w).chain = w.chain := rfl
@[simp] theorem loadBuffers_ctsave : (loadBuffers data w).ctsave = w.ctsave := rfl
@[simp] theorem loadBuffers_blk : (loadBuffers data w).blk = w.blk := rfl
@[simp] theorem loadBuffers_ibuf : (loadBuffers data w).ibuf = data := rfl
@[simp] theorem loadBuffers_obuf : (loadBuffers data w).obuf = [] := rfl

end loadBuffers

section padInput
variable (w : Work)

@[simp] theorem padInput_keyin : (padInput w).keyin = w.keyin := rfl
@[simp] theorem padInput_st : (padInput w).st = w.st := rfl
@[simp] theorem padInput_rnd : (padInput w).rnd = w.rnd := rfl
@[simp] theorem padInput_chain : (padInput w).chain = w.chain := rfl
@[simp] theorem padInput_ctsave : (padInput w).ctsave = w.ctsave := rfl
@[simp] theorem padInput_blk : (padInput w).blk = w.blk := rfl
@[simp] theorem padInput_ibuf : (padInput w).ibuf = pad w.ibuf := rfl
@[simp] theorem padInput_obuf : (padInput w).obuf = w.obuf := rfl

end padInput

section runCipher
variable (rk : Schedule) (input : Block) (w : Work)

@[simp] theorem runCipher_keyin : (runCipher rk input w).keyin = w.keyin := rfl
@[simp] theorem runCipher_st : (runCipher rk input w).st = cipherState rk input := rfl
@[simp] theorem runCipher_rnd : (runCipher rk input w).rnd = 10 := rfl
@[simp] theorem runCipher_chain : (runCipher rk input w).chain = w.chain := rfl
@[simp] theorem runCipher_ctsave : (runCipher rk input w).ctsave = w.ctsave := rfl
@[simp] theorem runCipher_blk : (runCipher rk input w).blk = w.blk := rfl
@[simp] theorem runCipher_ibuf : (runCipher rk input w).ibuf = w.ibuf := rfl
@[simp] theorem runCipher_obuf : (runCipher rk input w).obuf = w.obuf := rfl

end runCipher

section runInvCipher
variable (rk : Schedule) (input : Block) (w : Work)

@[simp] theorem runInvCipher_keyin : (runInvCipher rk input w).keyin = w.keyin := rfl
@[simp] theorem runInvCipher_st : (runInvCipher rk input w).st = invCipherState rk input := rfl
@[simp] theorem runInvCipher_rnd : (runInvCipher rk input w).rnd = 0 := rfl
@[simp] theorem runInvCipher_chain : (runInvCipher rk input w).chain = w.chain := rfl
@[simp] theorem runInvCipher_ctsave : (runInvCipher rk input w).ctsave = w.ctsave := rfl
@[simp] theorem runInvCipher_blk : (runInvCipher rk input w).blk = w.blk := rfl
@[simp] theorem runInvCipher_ibuf : (runInvCipher rk input w).ibuf = w.ibuf := rfl
@[simp] theorem runInvCipher_obuf : (runInvCipher rk input w).obuf = w.obuf := rfl

end runInvCipher

section loadKey
variable (key : Block) (w : Work)

@[simp] theorem loadKey_keyin : (loadKey key w).keyin = key := rfl
@[simp] theorem loadKey_st : (loadKey key w).st = w.st := rfl
@[simp] theorem loadKey_rnd : (loadKey key w).rnd = w.rnd := rfl
@[simp] theorem loadKey_chain : (loadKey key w).chain = w.chain := rfl
@[simp] theorem loadKey_ctsave : (loadKey key w).ctsave = w.ctsave := rfl
@[simp] theorem loadKey_blk : (loadKey key w).blk = w.blk := rfl
@[simp] theorem loadKey_ibuf : (loadKey key w).ibuf = w.ibuf := rfl
@[simp] theorem loadKey_obuf : (loadKey key w).obuf = w.obuf := rfl

end loadKey

section loadChain
variable (iv : Block) (w : Work)

@[simp] theorem loadChain_keyin : (loadChain iv w).keyin = w.keyin := rfl
@[simp] theorem loadChain_st : (loadChain iv w).st = w.st := rfl
@[simp] theorem loadChain_rnd : (loadChain iv w).rnd = w.rnd := rfl
@[simp] theorem loadChain_chain : (loadChain iv w).chain = iv := rfl
@[simp] theorem loadChain_ctsave : (loadChain iv w).ctsave = w.ctsave := rfl
@[simp] theorem loadChain_blk : (loadChain iv w).blk = w.blk := rfl
@[simp] theorem loadChain_ibuf : (loadChain iv w).ibuf = w.ibuf := rfl
@[simp] theorem loadChain_obuf : (loadChain iv w).obuf = w.obuf := rfl

end loadChain

/-- The key expansion run gives the expansion of KEYIN (41_key_expansion.md R120). -/
@[simp] theorem runKeyExpansion_schedule (w : Work) : (runKeyExpansion w).2 = keyExpansion w.keyin := rfl

/-- The key expansion run leaves OBUF alone. -/
@[simp] theorem runKeyExpansion_obuf (w : Work) : (runKeyExpansion w).1.obuf = w.obuf := rfl

/-- The free values keep RND in its range (10_state.md R25). -/
theorem freeWork_rnd_le (c : Config) (n : Nat) : (freeWork c n).rnd ≤ 10 :=
  Nat.le_of_lt_succ (Config.freeRnd n).isLt

/-- The free values keep BLK below 2^28 (10_state.md R26). -/
theorem freeWork_blk_lt (c : Config) (n : Nat) : (freeWork c n).blk < 268435456 := (Config.freeBlk n).isLt

/-- The free values keep IBUF within its capacity (10_state.md R27). -/
theorem freeWork_ibuf_length (c : Config) (n : Nat) :
    (freeWork c n).ibuf.length ≤ c.maxDataLen + 16 := by
  simp [freeWork]

/-- The free values keep OBUF within its capacity (10_state.md R27). -/
theorem freeWork_obuf_length (c : Config) (n : Nat) :
    (freeWork c n).obuf.length ≤ c.maxDataLen + 16 := by
  simp [freeWork]

end Sys2Proof.Machine
end

