-- ==== Sys2Proof/Laws/Ops.lean ====
section
/-! SUPPORT. One lemma for each shared operation that says once everything it can do. -/

namespace Sys2Proof.Machine

open Sys2Proof

/-- `return v`: the command is answered OK with `v` (00_scope.md R14). -/
theorem complete_eq (v : List Byte) (s : State) : complete v s = .next (answered s 0x00#8 v) := rfl

/-- `raise E`: the command is answered with the error's status and no data (60_exceptions.md R196). -/
theorem raise_eq (e : ErrorCode) (s : State) : raise e s = .next (answered s (errorStatus e) []) := rfl

/-- A command that needs the schedule runs with `RK` or raises NoSchedule (60_exceptions.md R194). -/
theorem requireSchedule_cases (s : State) (run : Schedule → Host.Outcome State Fault Refusal) :
    (s.ksValid = true ∧ requireSchedule s run = run s.rk) ∨
    (s.ksValid = false ∧ requireSchedule s run = .next (answered s 0x05#8 [])) := by
  unfold requireSchedule
  cases h : s.ksValid
  · exact .inr ⟨rfl, rfl⟩
  · exact .inl ⟨rfl, rfl⟩

/-- The bytes of a block are a block's bytes. -/
@[simp] theorem blockOfBytes_blockBytes (b : Block) : blockOfBytes (blockBytes b) = some b := rfl

/-- A block has sixteen bytes (00_scope.md R11). -/
@[simp] theorem blockBytes_length (b : Block) : (blockBytes b).length = 16 := rfl

/-- Only sixteen bytes make a block, and they are its bytes. -/
theorem blockOfBytes_eq_some {l : List Byte} {b : Block} :
    blockOfBytes l = some b ↔ l = blockBytes b := by
  constructor
  · intro h
    unfold blockOfBytes at h
    split at h
    · cases h; rfl
    · cases h
  · rintro rfl; rfl

/-- A byte string makes a block exactly when its length is 16 (00_scope.md R11). -/
theorem blockOfBytes_eq_none {l : List Byte} : blockOfBytes l = none ↔ l.length ≠ 16 := by
  constructor
  · intro h hl
    unfold blockOfBytes at h
    split at h
    · cases h
    · rename_i hne
      match l, hl with
      | [a0, a1, a2, a3, a4, a5, a6, a7, a8, a9, a10, a11, a12, a13, a14, a15], _ =>
        exact hne _ _ _ _ _ _ _ _ _ _ _ _ _ _ _ _ rfl
  · intro h
    cases hb : blockOfBytes l with
    | none => rfl
    | some b => exact absurd (by rw [blockOfBytes_eq_some.mp hb]; rfl) h

/-- A sixteen-byte operand runs the operation with its block; any other length raises the error. -/
theorem requireBlock_cases (l : List Byte) (e : ErrorCode) (s : State)
    (run : Block → Host.Outcome State Fault Refusal) :
    (∃ b, l = blockBytes b ∧ requireBlock l e s run = run b) ∨
    (l.length ≠ 16 ∧ requireBlock l e s run = .next (answered s (errorStatus e) [])) := by
  unfold requireBlock
  cases h : blockOfBytes l with
  | some b => exact .inl ⟨b, blockOfBytes_eq_some.mp h, rfl⟩
  | none => exact .inr ⟨blockOfBytes_eq_none.mp h, rfl⟩

/-- `Block(buf, i)` reads the sixteen bytes from offset `16i` (20_memory.md R45). -/
theorem blockBytes_bufBlock (buf : List Byte) (i : Nat) :
    blockBytes (bufBlock buf i) = (List.range 16).map fun j => bufByte buf (16 * i + j) := rfl

/-- One block step at setting `PRE` (44_cbc.md R166, R170). -/
theorem chainStep_pre (rk : Schedule) (w : Work) (i : Nat) :
    chainStep .pre rk w i =
      { w with
        blk := i
        st := cipherState rk ((bufBlock w.ibuf i).xor w.chain)
        rnd := 10
        obuf := w.obuf ++ blockBytes (cipher rk ((bufBlock w.ibuf i).xor w.chain))
        chain := cipher rk ((bufBlock w.ibuf i).xor w.chain) } := rfl

/-- One block step at setting `POST` (44_cbc.md R166, R175, R176). -/
theorem chainStep_post (rk : Schedule) (w : Work) (i : Nat) :
    chainStep .post rk w i =
      { w with
        blk := i
        ctsave := bufBlock w.ibuf i
        st := invCipherState rk (bufBlock w.ibuf i)
        rnd := 0
        obuf := w.obuf ++ blockBytes ((invCipher rk (bufBlock w.ibuf i)).xor w.chain)
        chain := bufBlock w.ibuf i } := rfl

/-- A block step leaves IBUF alone (20_memory.md R48: IBUF and OBUF are distinct). -/
@[simp] theorem chainStep_ibuf (a : ArbiterSetting) (rk : Schedule) (w : Work) (i : Nat) :
    (chainStep a rk w i).ibuf = w.ibuf := by
  cases a <;> rfl

/-- A block step appends one block to OBUF and leaves what is there (20_memory.md R45, R48). -/
theorem chainStep_obuf (a : ArbiterSetting) (rk : Schedule) (w : Work) (i : Nat) :
    ∃ b, (chainStep a rk w i).obuf = w.obuf ++ blockBytes b := by
  cases a
  · exact ⟨_, congrArg Work.obuf (chainStep_pre rk w i)⟩
  · exact ⟨_, congrArg Work.obuf (chainStep_post rk w i)⟩

/-- The block loop leaves IBUF alone and only appends to OBUF (20_memory.md R48). -/
theorem chainRun_buffers (a : ArbiterSetting) (rk : Schedule) (iv : Block) (w : Work) :
    (chainRun a rk iv w).ibuf = w.ibuf ∧ w.obuf <+: (chainRun a rk iv w).obuf := by
  have loop : ∀ (is : List Nat) (u : Work),
      (is.foldl (chainStep a rk) u).ibuf = u.ibuf ∧ u.obuf <+: (is.foldl (chainStep a rk) u).obuf := by
    intro is
    induction is with
    | nil => exact fun u => ⟨rfl, List.prefix_refl _⟩
    | cons i is ih =>
      intro u
      obtain ⟨hi, ho⟩ := ih (chainStep a rk u i)
      obtain ⟨b, hb⟩ := chainStep_obuf a rk u i
      exact ⟨hi.trans (chainStep_ibuf a rk u i), .trans ⟨blockBytes b, hb.symm⟩ ho⟩
  exact loop _ (loadChain iv w)

/-- The receiver takes a frame the host has sent whole (30_encoding.md R61). -/
theorem receiveFrame_sendFrame (acc : List Byte) (b : Byte) (f : List Byte) (rest : List HostAction) :
    receiveFrame acc (sendFrame (b :: f) ++ rest) = .frame (acc ++ b :: f) rest := by
  induction f generalizing acc b with
  | nil => rfl
  | cons c f ih => simpa [sendFrame, receiveFrame] using ih (acc ++ [b]) c

/-- The receiver only ever collects, resets or waits; it never moves a response byte. -/
theorem receiveFrame_cases (acc : List Byte) (h : List HostAction) :
    (∃ f rest, receiveFrame acc h = .frame f rest ∧ f ≠ []) ∨
    (∃ rest, receiveFrame acc h = .reset rest) ∨
    (∃ why, receiveFrame acc h = .waiting why) := by
  induction h generalizing acc with
  | nil => exact .inr (.inr ⟨_, rfl⟩)
  | cons a h ih =>
    match a with
    | .send b true => exact .inl ⟨_, _, rfl, by simp⟩
    | .send b false => exact ih _
    | .take => exact .inr (.inr ⟨_, rfl⟩)
    | .reset => exact .inr (.inl ⟨_, rfl⟩)

/-- With no response offered, a frame the host is sending arrives whole (30_encoding.md R61, R62). -/
theorem nextArrival_sendFrame (s : State) (b : Byte) (f : List Byte) (rest : List HostAction)
    (hr : s.rsp = []) (hh : s.host = sendFrame (b :: f) ++ rest) :
    nextArrival s = .frame (b :: f) rest := by
  have := receiveFrame_sendFrame [] b f rest
  unfold nextArrival
  rw [hr, hh]
  exact this

/-- All that one step can be. -/
theorem step_cases (s : State) :
    (∃ f rest, nextArrival s = .frame f rest ∧ step s = runFrame f { s with host := rest }) ∨
    (∃ b more rest, nextArrival s = .transfer b more rest ∧
      step s = .next (transferByte b more { s with host := rest })) ∨
    (∃ rest, nextArrival s = .reset rest ∧ step s = .next (resetCore { s with host := rest })) ∨
    (∃ why, nextArrival s = .waiting why ∧ step s = .fault why) := by
  unfold step runArrival
  cases h : nextArrival s with
  | frame f rest => exact .inl ⟨f, rest, rfl, rfl⟩
  | transfer b more rest => exact .inr (.inl ⟨b, more, rest, rfl, rfl⟩)
  | reset rest => exact .inr (.inr (.inl ⟨rest, rfl, rfl⟩))
  | waiting why => exact .inr (.inr (.inr ⟨why, rfl, rfl⟩))

end Sys2Proof.Machine
end

