-- ==== Sys2Proof/Laws/PerInstr.lean ====
section
/-! SUPPORT. Facts about every command as syntax, one lemma for each constructor. -/

namespace Sys2Proof.Laws

open Sys2Proof

/-- The opcode of a command (30_encoding.md R70). -/
def opcodeOf : Instr → Byte
  | .deriveSchedule _ => 0x01#8
  | .encryptBlock _ => 0x02#8
  | .decryptBlock _ => 0x03#8
  | .pad _ => 0x04#8
  | .unpad _ => 0x05#8
  | .cbcEncrypt _ _ => 0x06#8
  | .cbcDecrypt _ _ => 0x07#8

/-- The frame length of a command (30_encoding.md R65 to R68). -/
def frameLengthOf : Instr → Nat
  | .deriveSchedule key => 5 + key.length
  | .encryptBlock _ => 17
  | .decryptBlock _ => 17
  | .pad data => 5 + data.length
  | .unpad data => 5 + data.length
  | .cbcEncrypt iv data => 9 + iv.length + data.length
  | .cbcDecrypt iv data => 9 + iv.length + data.length

/-- A command's frame begins with its opcode and has the length its format gives. -/
def FrameShape.Statement (i : Instr) : Prop :=
  (encode i).head? = some (opcodeOf i) ∧ (encode i).length = frameLengthOf i

/-- A counted string takes four bytes more than its value (30_encoding.md R64). -/
@[simp] theorem countedBytes_length (v : List Byte) : (countedBytes v).length = 4 + v.length := by
  simp [countedBytes, be32]
  omega

theorem FrameShape.deriveSchedule (key : List Byte) : FrameShape.Statement (.deriveSchedule key) :=
  ⟨rfl, by simp [encode, frameLengthOf]; omega⟩

theorem FrameShape.encryptBlock (block : Block) : FrameShape.Statement (.encryptBlock block) :=
  ⟨rfl, rfl⟩

theorem FrameShape.decryptBlock (block : Block) : FrameShape.Statement (.decryptBlock block) :=
  ⟨rfl, rfl⟩

theorem FrameShape.pad (data : List Byte) : FrameShape.Statement (.pad data) :=
  ⟨rfl, by simp [encode, frameLengthOf]; omega⟩

theorem FrameShape.unpad (data : List Byte) : FrameShape.Statement (.unpad data) :=
  ⟨rfl, by simp [encode, frameLengthOf]; omega⟩

theorem FrameShape.cbcEncrypt (iv data : List Byte) : FrameShape.Statement (.cbcEncrypt iv data) :=
  ⟨rfl, by simp [encode, frameLengthOf]; omega⟩

theorem FrameShape.cbcDecrypt (iv data : List Byte) : FrameShape.Statement (.cbcDecrypt iv data) :=
  ⟨rfl, by simp [encode, frameLengthOf]; omega⟩

end Sys2Proof.Laws
end

