-- ==== Sys2Proof/Machine/Text.lean ====
section
/-! DEFINITION. The written form of commands and responses (30_encoding.md R77). -/

namespace Sys2Proof.Machine

open Sys2Proof

/-- A hexadecimal digit, lower case (00_scope.md R11). -/
def hexDigit (n : Nat) : Char :=
  ['0', '1', '2', '3', '4', '5', '6', '7', '8', '9', 'a', 'b', 'c', 'd', 'e', 'f'].getD n '0'

/-- A byte as two hexadecimal digits. -/
def hexByte (b : Byte) : List Char := [hexDigit (b.toNat / 16), hexDigit (b.toNat % 16)]

/-- A byte string as R77 writes a value: hexadecimal digits, or two quotation marks for the empty one. -/
def hexBytes : List Byte → List Char
  | [] => ['"', '"']
  | b :: bs => (b :: bs).flatMap hexByte

/-- A command as one line: its mnemonic and its operands in frame order (R77). -/
def commandText : Instr → List Char
  | .deriveSchedule key => "DERIVE_SCHEDULE key=".toList ++ hexBytes key
  | .encryptBlock block => "ENCRYPT_BLOCK block=".toList ++ hexBytes (blockBytes block)
  | .decryptBlock block => "DECRYPT_BLOCK block=".toList ++ hexBytes (blockBytes block)
  | .pad data => "PAD data=".toList ++ hexBytes data
  | .unpad data => "UNPAD data=".toList ++ hexBytes data
  | .cbcEncrypt iv data => "CBC_ENCRYPT iv=".toList ++ hexBytes iv ++ " data=".toList ++ hexBytes data
  | .cbcDecrypt iv data => "CBC_DECRYPT iv=".toList ++ hexBytes iv ++ " data=".toList ++ hexBytes data

/-- The name of an error's status (30_encoding.md R73). -/
def errorName : ErrorCode → List Char
  | .invalidKeyLength => "InvalidKeyLength".toList
  | .invalidIVLength => "InvalidIVLength".toList
  | .invalidCiphertextLength => "InvalidCiphertextLength".toList
  | .invalidPadding => "InvalidPadding".toList
  | .noSchedule => "NoSchedule".toList
  | .illegalCommand => "IllegalCommand".toList

/-- A response as R77 writes it after the arrow: `OK` and the value, or the error's name. -/
def responseText : Except ErrorCode (List Byte) → List Char
  | .ok v => "OK ".toList ++ hexBytes v
  | .error e => errorName e

end Sys2Proof.Machine
end

