-- ==== Sys2Proof/Tests/Slice0.lean ====
section
/-! SUPPORT. Tests on fixed values, every expected value from 95_test_vectors.md or written out from the
tables of 30_encoding.md, and a witness for the hypotheses of each statement that has some. -/

namespace Sys2Proof.Tests

open Sys2Proof Sys2Proof.Machine

set_option maxRecDepth 100000

/-! ### Helpers -/

/-- The `k` bytes of a numeral, the first the most significant. -/
def bytesOf : Nat → Nat → List Byte
  | 0, _ => []
  | k + 1, n => bytesOf k (n / 256) ++ [BitVec.ofNat 8 n]

/-- The block of a numeral of 32 hexadecimal digits. -/
def blockOf (n : Nat) : Block := (blockOfBytes (bytesOf 16 n)).getD .zero

/-- The key of V1 and V10. -/
def keyV1 : Block := blockOf 0x000102030405060708090a0b0c0d0e0f

/-- The plaintext block of V1. -/
def plainV1 : Block := blockOf 0x00112233445566778899aabbccddeeff

/-- The first key of V13. -/
def keyV13 : Block := blockOf 0x2b7e151628aed2a6abf7158809cf4f3c

/-- The plaintext of V31. -/
def messageV31 : List Byte := bytesOf 25 0x496e746572766965772d41492064656d6f206d657373616765

/-- The ciphertext of V31. -/
def cipherV31 : List Byte := bytesOf 32 0xddf7ec3a5894a7566f22b811c034abdacfcf96eac9566add2e003eda3ae212b8

/-- Sixteen bytes 00. -/
def zeros : List Byte := blockBytes .zero

/-- A core right after reset that then took a key. -/
def held (key : Block) : State := { State.reset with ksValid := true, rk := keyExpansion key }

/-- The same core built with STRICT_UNPAD = 0. -/
def lax (s : State) : State := { s with cfg := { s.cfg with strictUnpad := false } }

/-- A core built for data of at most `n` bytes. -/
def limited (n : Nat) : Config := { Config.recommended with maxDataLen := n }

/-- A core built for data of at most `n` bytes that holds the key of V1. -/
def limitedCore (n : Nat) : State := { held keyV1 with cfg := limited n }

/-- A core to which the host is sending a frame. -/
def sending (f : List Byte) (s : State) : State := { s with host := sendFrame f }

/-- The response bytes an outcome leaves on the port. -/
def reply : Host.Outcome State Fault Refusal → List Byte
  | .next t => t.rsp
  | .fault _ => []
  | .refused _ => []

/-- The persistent state an outcome leaves. -/
def after (p : Persistent) : Host.Outcome State Fault Refusal → Persistent
  | .next t => persistent t
  | .fault _ => p
  | .refused _ => p

/-- `n` bytes 00. -/
def longString (n : Nat) : List Byte := List.replicate n 0

theorem longString_length (n : Nat) : (longString n).length = n := List.length_replicate

/-! ### Well-formedness: an ill-formed term for each check -/

theorem test_wf_key_too_long :
    (Instr.deriveSchedule (longString 4294967296)).wellFormed Config.recommended = false := by
  simp [Instr.wellFormed, fitsLengthField, longString_length]

theorem test_wf_iv_too_long (data : List Byte) :
    (Instr.cbcEncrypt (longString 4294967296) data).wellFormed Config.recommended = false ∧
    (Instr.cbcDecrypt (longString 4294967296) data).wellFormed Config.recommended = false := by
  simp [Instr.wellFormed, fitsLengthField, longString_length]

theorem test_wf_data_over_limit :
    (Instr.pad [1, 2, 3]).wellFormed (limited 2) = false ∧
    (Instr.unpad [1, 2, 3]).wellFormed (limited 2) = false ∧
    (Instr.cbcEncrypt [] [1, 2, 3]).wellFormed (limited 2) = false ∧
    (Instr.cbcDecrypt [] [1, 2, 3]).wellFormed (limited 2) = false := by decide

theorem test_wf_data_too_long_for_its_field :
    (Instr.pad (longString 4294967296)).wellFormed (limited 4294967296) = false := by
  simp [Instr.wellFormed, fitsDataLimit, fitsLengthField, longString_length, limited]

/-! ### Decoding: frames written out from 30_encoding.md R65 to R68 (V40), and malformed ones (V41) -/

theorem test_decode_derive_schedule :
    decode Config.recommended (bytesOf 21 0x0100000010000102030405060708090a0b0c0d0e0f) =
      .ok (.deriveSchedule (blockBytes keyV1)) ∧
    decode Config.recommended (bytesOf 5 0x0100000000) = .ok (.deriveSchedule []) := by decide +kernel

theorem test_decode_encrypt_block :
    decode Config.recommended (bytesOf 17 0x0200112233445566778899aabbccddeeff) =
      .ok (.encryptBlock plainV1) := by decide +kernel

theorem test_decode_decrypt_block :
    decode Config.recommended (bytesOf 17 0x0369c4e0d86a7b0430d8cdb78070b4c55a) =
      .ok (.decryptBlock (blockOf 0x69c4e0d86a7b0430d8cdb78070b4c55a)) := by decide +kernel

theorem test_decode_pad :
    decode Config.recommended (bytesOf 5 0x0400000000) = .ok (.pad []) ∧
    decode Config.recommended (bytesOf 8 0x0400000003616263) = .ok (.pad [0x61, 0x62, 0x63]) := by
  decide +kernel

theorem test_decode_unpad :
    decode Config.recommended (bytesOf 7 0x05000000020503) = .ok (.unpad [0x05, 0x03]) := by
  decide +kernel

theorem test_decode_cbc_encrypt :
    decode Config.recommended (bytesOf 10 0x06000000000000000141) = .ok (.cbcEncrypt [] [0x41]) ∧
    decode Config.recommended
      (bytesOf 25 0x0600000010000102030405060708090a0b0c0d0e0f00000000) =
      .ok (.cbcEncrypt (blockBytes keyV1) []) := by decide +kernel

theorem test_decode_cbc_decrypt :
    decode Config.recommended
      (bytesOf 25 0x070000000f0102030405060708090a0b0c0d0e0f0000000141) =
      .ok (.cbcDecrypt (bytesOf 15 0x0102030405060708090a0b0c0d0e0f) [0x41]) := by decide +kernel

theorem test_decode_malformed :
    decode Config.recommended (bytesOf 1 0x00) = .error .illegalOpcode ∧
    decode Config.recommended (0x08#8 :: zeros) = .error .illegalOpcode ∧
    decode Config.recommended (bytesOf 1 0xff) = .error .illegalOpcode ∧
    decode Config.recommended (bytesOf 1 0x01) = .error .shortLengthField ∧
    decode Config.recommended (bytesOf 4 0x01000000) = .error .shortLengthField ∧
    decode Config.recommended (bytesOf 20 0x0100000010000102030405060708090a0b0c0d0e) =
      .error .lengthOverrun ∧
    decode Config.recommended (bytesOf 22 0x0100000010000102030405060708090a0b0c0d0e0f10) =
      .error .leftoverBytes ∧
    decode Config.recommended (bytesOf 16 0x02000000000000000000000000000000) =
      .error .wrongBlockLength ∧
    decode Config.recommended (bytesOf 1 0x02) = .error .wrongBlockLength ∧
    decode Config.recommended (bytesOf 7 0x04000000034142) = .error .lengthOverrun ∧
    decode Config.recommended (bytesOf 6 0x040000000041) = .error .leftoverBytes ∧
    decode Config.recommended (bytesOf 21 0x0600000010000102030405060708090a0b0c0d0e0f) =
      .error .shortLengthField ∧
    decode Config.recommended (bytesOf 6 0x06ffffffff00) = .error .lengthOverrun ∧
    decode (limited 2) (bytesOf 8 0x0400000003616263) = .error .dataTooLong := by decide +kernel

theorem test_table_words :
    decodeTableWord 8 1 = some (.deriveSchedule []) ∧ decodeTableWord 8 2 = some (.encryptBlock .zero) ∧
    decodeTableWord 8 3 = some (.decryptBlock .zero) ∧ decodeTableWord 8 4 = some (.pad []) ∧
    decodeTableWord 8 5 = some (.unpad []) ∧ decodeTableWord 8 6 = some (.cbcEncrypt [] []) ∧
    decodeTableWord 8 7 = some (.cbcDecrypt [] []) ∧ decodeTableWord 8 8 = none := by decide +kernel

theorem test_table_word_runs :
    step (State.reset.withFetchWord 8 4) = exec (.pad []) State.reset := rfl

/-! ### The functions under the commands (V10, V15, V16) -/

theorem test_field :
    xtime 0x53#8 = 0xa6#8 ∧ xtime 0xca#8 = 0x8f#8 ∧ gmul 0x80#8 0x02#8 = 0x1b#8 ∧
    ginv 0x80#8 = 0x83#8 ∧ sbox 0xca#8 = 0x74#8 ∧ invSbox 0x80#8 = 0x3a#8 := by decide +kernel

theorem test_round_primitives :
    subBytes (blockOf 0x00102030405060708090a0b0c0d0e0f0) =
      blockOf 0x63cab7040953d051cd60e0e7ba70e18c ∧
    shiftRows (blockOf 0x63cab7040953d051cd60e0e7ba70e18c) =
      blockOf 0x6353e08c0960e104cd70b751bacad0e7 ∧
    mixColumns (blockOf 0x6353e08c0960e104cd70b751bacad0e7) =
      blockOf 0x5f72641557f5bc92f7be3b291db9f91a ∧
    invMixColumns (blockOf 0x5f72641557f5bc92f7be3b291db9f91a) =
      blockOf 0x6353e08c0960e104cd70b751bacad0e7 := by decide +kernel

theorem test_key_expansion :
    scheduleKey (keyExpansion keyV1) 1 = blockOf 0xd6aa74fdd2af72fadaa678f1d6ab76fe ∧
    scheduleKey (keyExpansion keyV1) 10 = blockOf 0x13111d7fe3944a17f307a78b4d2b30c5 ∧
    scheduleKey (keyExpansion keyV13) 9 = blockOf 0xac7766f319fadc2128d12941575c006e ∧
    scheduleWord (keyExpansion keyV1) 43 = ⟨0x4d, 0x2b, 0x30, 0xc5⟩ := by decide +kernel

/-! ### The commands (V1, V17, V20, V21, V30 to V34, V42, P1 to P6) -/

theorem test_derive_schedule :
    reply (exec (.deriveSchedule (blockBytes keyV13)) (held keyV1)) = [0, 0, 0, 0, 0] ∧
    after ⟨false, .zero⟩ (exec (.deriveSchedule (blockBytes keyV13)) (held keyV1)) =
      ⟨true, keyExpansion keyV13⟩ := by decide +kernel

theorem test_derive_schedule_wrong_length :
    reply (exec (.deriveSchedule (bytesOf 15 0x000102030405060708090a0b0c0d0e)) (held keyV1)) =
      [1, 0, 0, 0, 0] ∧
    after ⟨false, .zero⟩ (exec (.deriveSchedule (0x00#8 :: zeros)) (held keyV1)) =
      ⟨true, keyExpansion keyV1⟩ := by decide +kernel

theorem test_encrypt_block :
    reply (exec (.encryptBlock (blockOf 0x3243f6a8885a308d313198a2e0370734)) (held keyV13)) =
      bytesOf 21 0x00000000103925841d02dc09fbdc118597196a0b32 ∧
    reply (exec (.encryptBlock plainV1) State.reset) = [5, 0, 0, 0, 0] := by decide +kernel

theorem test_decrypt_block :
    reply (exec (.decryptBlock (blockOf 0x00112233445566778899aabbccddeeff)) (held keyV1)) =
      bytesOf 21 0x0000000010762a5ab50929189cefdb99434790aad8 ∧
    reply (exec (.decryptBlock plainV1) State.reset) = [5, 0, 0, 0, 0] := by decide +kernel

theorem test_pad :
    reply (exec (.pad []) State.reset) =
      bytesOf 21 0x000000001010101010101010101010101010101010 ∧
    reply (exec (.pad [0x61, 0x62, 0x63]) State.reset) =
      bytesOf 21 0x00000000106162630d0d0d0d0d0d0d0d0d0d0d0d0d ∧
    reply (exec (.pad (List.replicate 15 0x41)) State.reset) =
      bytesOf 21 0x000000001041414141414141414141414141414101 := by decide +kernel

theorem test_unpad :
    reply (exec (.unpad [0x41, 0x03, 0x02]) State.reset) = [4, 0, 0, 0, 0] ∧
    reply (exec (.unpad [0x41, 0x03, 0x02]) (lax State.reset)) = [0, 0, 0, 0, 1, 0x41] ∧
    reply (exec (.unpad [0x41, 0x02, 0x02]) State.reset) = [0, 0, 0, 0, 1, 0x41] ∧
    reply (exec (.unpad []) State.reset) = [4, 0, 0, 0, 0] ∧
    reply (exec (.unpad [0x05, 0x03]) (lax State.reset)) = [4, 0, 0, 0, 0] ∧
    reply (exec (.unpad (List.replicate 17 0x11)) (lax State.reset)) = [4, 0, 0, 0, 0] := by
  decide +kernel

theorem test_cbc_encrypt :
    reply (exec (.cbcEncrypt zeros messageV31) (held keyV1)) =
      [0, 0, 0, 0, 32] ++ cipherV31 := by decide +kernel

theorem test_cbc_encrypt_errors :
    reply (exec (.cbcEncrypt (zeros.take 15) [0x41]) (held keyV1)) = [2, 0, 0, 0, 0] ∧
    reply (exec (.cbcEncrypt (zeros.take 15) [0x41]) State.reset) = [5, 0, 0, 0, 0] := by
  decide +kernel

theorem test_cbc_decrypt :
    reply (exec (.cbcDecrypt zeros cipherV31) (held keyV1)) = [0, 0, 0, 0, 25] ++ messageV31 ∧
    reply (exec (.cbcDecrypt zeros (bytesOf 16 0x13454974ef4cc7b01f0e5df5bfc601c9)) (held keyV1)) =
      [4, 0, 0, 0, 0] ∧
    reply (exec (.cbcDecrypt zeros (bytesOf 16 0x13454974ef4cc7b01f0e5df5bfc601c9))
      (lax (held keyV1))) = bytesOf 17 0x000000000c414141414141414141414141 := by decide +kernel

theorem test_cbc_decrypt_errors :
    reply (exec (.cbcDecrypt (0x00#8 :: zeros) (0x00#8 :: zeros)) (held keyV1)) = [2, 0, 0, 0, 0] ∧
    reply (exec (.cbcDecrypt zeros (0x00#8 :: zeros)) (held keyV1)) = [3, 0, 0, 0, 0] ∧
    reply (exec (.cbcDecrypt zeros []) (held keyV1)) = [3, 0, 0, 0, 0] ∧
    reply (exec (.cbcDecrypt zeros zeros) (held keyV1)) = [4, 0, 0, 0, 0] ∧
    reply (exec (.cbcDecrypt zeros (0x00#8 :: zeros)) State.reset) = [5, 0, 0, 0, 0] := by
  decide +kernel

theorem test_malformed_frame :
    reply (step (sending (bytesOf 7 0x04000000034142) (held keyV1))) = [6, 0, 0, 0, 0] ∧
    after ⟨false, .zero⟩ (step (sending (bytesOf 7 0x04000000034142) (held keyV1))) =
      persistent (held keyV1) := by decide +kernel

/-- The written form of V14 and V20 (30_encoding.md R77). -/
theorem test_text :
    commandText (.pad [0x61, 0x62, 0x63]) = "PAD data=616263".toList ∧
    commandText (.cbcEncrypt [0x0f] []) = "CBC_ENCRYPT iv=0f data=\"\"".toList ∧
    responseText (.error .invalidKeyLength) = "InvalidKeyLength".toList := by decide +kernel

/-! ### Witnesses: a concrete state and operands that meet the hypotheses of each statement -/

theorem witness_DecodeOfEncodeIsTheCommand :
    (Instr.deriveSchedule []).wellFormed (limited 0) = true ∧
    (Instr.encryptBlock plainV1).wellFormed (limited 0) = true ∧
    (Instr.decryptBlock plainV1).wellFormed (limited 0) = true ∧
    (Instr.pad []).wellFormed (limited 0) = true ∧ (Instr.pad [1, 2]).wellFormed (limited 2) = true ∧
    (Instr.unpad [1, 2]).wellFormed (limited 2) = true ∧
    (Instr.cbcEncrypt [9, 9, 9] [1, 2]).wellFormed (limited 2) = true ∧
    (Instr.cbcDecrypt zeros [1, 2]).wellFormed Config.recommended = true := by decide

theorem witness_DecodedFrameIsItsEncoding :
    decode (limited 2) (bytesOf 11 0x0600000001770000000141) = .ok (.cbcEncrypt [0x77] [0x41]) := by
  decide +kernel

theorem witness_IllegalOpcodesAreRejected :
    ((0x00#8).toNat = 0 ∨ 8 ≤ (0x00#8).toNat) ∧ ((0x08#8).toNat = 0 ∨ 8 ≤ (0x08#8).toNat) ∧
    ((0xff#8).toNat = 0 ∨ 8 ≤ (0xff#8).toNat) := by decide

theorem witness_LengthFieldsAreBigEndian :
    0 < 4294967296 ∧ be32 0 = [0, 0, 0, 0] ∧ 4294967295 < 4294967296 ∧
    be32 4294967295 = [0xff, 0xff, 0xff, 0xff] := by decide

theorem witness_StepRunsTheDecodedCommand :
    (sending (bytesOf 5 0x0400000000) State.reset).rsp = [] ∧ bytesOf 5 0x0400000000 ≠ [] ∧
    (sending (bytesOf 5 0x0400000000) State.reset).host = sendFrame (bytesOf 5 0x0400000000) ++ [] ∧
    decode State.reset.cfg (bytesOf 5 0x0400000000) = .ok (.pad []) := by decide +kernel

theorem witness_MalformedFrameIsAnsweredIllegalCommand :
    (sending [0x08] (held keyV1)).rsp = [] ∧ ([0x08] : List Byte) ≠ [] ∧
    (sending [0x08] (held keyV1)).host = sendFrame [0x08] ++ [] ∧
    decode (held keyV1).cfg [0x08] = .error .illegalOpcode ∧
    decode (held keyV1).cfg [0x02] = .error .wrongBlockLength := by decide +kernel

theorem witness_ResponseIsTakenBeforeTheNextCommand :
    ({ State.reset with rsp := [0x05], host := [.take] } : State).rsp = 0x05#8 :: [] ∧
    ({ State.reset with rsp := [0x05], host := [.take] } : State).host = .take :: [] ∧
    ({ State.reset with rsp := [0, 1], host := [.send 2 false] } : State).host = .send 2 false :: [] ∧
    ({ State.reset with rsp := [0, 1], host := [] } : State).host = [] := by decide

theorem witness_UnfinishedFrameMakesNoStep :
    State.reset.rsp = [] ∧ State.reset.host = ([] : List Byte).map (fun b => .send b false) ∧
    ({ State.reset with host := [.send 2 false, .take] } : State).host =
      [0x02#8].map (fun b => .send b false) ++ .take :: [] := by decide

theorem witness_ResetDiscardsWhatIsInFlight :
    ({ held keyV1 with rsp := [0, 0], host := [.reset] } : State).host = .reset :: [] ∧
    ({ held keyV1 with host := [.send 2 false, .reset, .take] } : State).rsp = [] ∧
    ({ held keyV1 with host := [.send 2 false, .reset, .take] } : State).host =
      [0x02#8].map (fun b => .send b false) ++ .reset :: [.take] := by decide +kernel

theorem witness_DeriveScheduleLoadsTheExpansion : (blockBytes keyV1).length = 16 := by decide

theorem witness_WrongKeyLengthLeavesTheSchedule :
    (zeros.take 15).length ≠ 16 ∧ (0x00#8 :: zeros).length ≠ 16 ∧ ([] : List Byte).length ≠ 16 := by
  decide

/-- For the statements that need a schedule to be held, ENCRYPT_BLOCK and DECRYPT_BLOCK among them. -/
theorem witness_EncryptBlockAnswersTheCipher : (held keyV1).ksValid = true := rfl

theorem witness_DecryptBlockAnswersTheInverseCipher : (held keyV13).ksValid = true := rfl

theorem witness_PadAnswersThePaddedData :
    16 = 16 - ([] : List Byte).length % 16 ∧ 1 = 16 - (zeros.take 15).length % 16 ∧
    16 = 16 - zeros.length % 16 := by decide

theorem witness_UnpadRemovesThePadding :
    1 ≤ 1 ∧ 1 ≤ 16 ∧ [0x01#8].length = 1 ∧ [0x01#8].getLast? = some (BitVec.ofNat 8 1) ∧
    (State.reset.cfg.strictUnpad = true → [0x01#8] = List.replicate 1 (BitVec.ofNat 8 1)) ∧
    16 ≤ 16 ∧ (List.replicate 16 0x10#8).length = 16 ∧
    (List.replicate 16 0x10#8).getLast? = some (BitVec.ofNat 8 16) ∧
    [0x03#8, 0x02].length = 2 ∧ [0x03#8, 0x02].getLast? = some (BitVec.ofNat 8 2) ∧
    ((lax State.reset).cfg.strictUnpad = true →
      [0x03#8, 0x02] = List.replicate 2 (BitVec.ofNat 8 2)) := by decide

theorem witness_CbcEncryptAnswersTheEquations :
    (held keyV1).ksValid = true ∧ zeros.length = 16 := ⟨rfl, rfl⟩

theorem witness_CbcDecryptAnswersTheEquations :
    (held keyV1).ksValid = true ∧
    cbcDecrypt (held keyV1).cfg.strictUnpad (held keyV1).rk .zero cipherV31 = .ok messageV31 ∧
    cbcDecrypt (held keyV1).cfg.strictUnpad (held keyV1).rk .zero
      (bytesOf 16 0x954f64f2e4e86e9eee82d20216684899) = .ok [] := by decide +kernel

theorem witness_NoScheduleExactlyWhenNoneIsHeld :
    needsSchedule (.encryptBlock plainV1) = true ∧ needsSchedule (.cbcDecrypt [] []) = true ∧
    State.reset.ksValid = false ∧ needsSchedule (.pad []) = false ∧ (held keyV1).ksValid = true ∧
    ∃ t, exec (.pad []) State.reset = .next t := ⟨rfl, rfl, rfl, rfl, rfl, _, rfl⟩

theorem witness_CbcEncryptRejectsWrongIvLength :
    (held keyV1).ksValid = true ∧ (zeros.take 15).length ≠ 16 ∧ (0x00#8 :: zeros).length ≠ 16 ∧
    [0x41#8, 0x42].length ≤ (limited 2).maxDataLen ∧ [0x41#8, 0x42].length < 4294967296 :=
  ⟨rfl, by decide⟩

theorem witness_UnpadRejectsExactlyBadPadding :
    (held keyV1).ksValid = true ∧ zeros.length ≠ 0 ∧ zeros.length % 16 = 0 ∧
    badPadding false [] ∧ badPadding true [0x03, 0x02] :=
  ⟨rfl, by decide, by decide, .inl rfl, .inr ⟨0x02, rfl, by decide⟩⟩

theorem witness_CbcDecryptReportsErrorsInOrder :
    (held keyV1).ksValid = true ∧ ([] : List Byte).length ≠ 16 ∧ zeros.length = 16 ∧
    (([] : List Byte).length = 0 ∨ ([] : List Byte).length % 16 ≠ 0) ∧
    ((0x00#8 :: zeros).length = 0 ∨ (0x00#8 :: zeros).length % 16 ≠ 0) ∧
    blockBytes Block.zero = zeros ∧ zeros.length ≠ 0 ∧ zeros.length % 16 = 0 ∧
    unpad (held keyV1).cfg.strictUnpad
      (joinBlocks (cbcPlainBlocks (held keyV1).rk .zero (bufBlocks zeros))) = none := by decide +kernel

theorem witness_ArbiterSettingsFollowTheTable :
    plainV1 = bufBlock (loadBuffers (blockBytes plainV1) Work.reset).ibuf 0 := by decide

theorem witness_InvariantIsKeptByEveryStep :
    (Inv (sending (0x02#8 :: zeros) (held keyV1)) ∧
      ∃ t, step (sending (0x02#8 :: zeros) (held keyV1)) = .next t) ∧
    (Inv { held keyV1 with host := [.reset] } ∧
      ∃ t, step { held keyV1 with host := [.reset] } = .next t) ∧
    Inv { State.reset with rsp := [5, 0, 0, 0, 0], host := [.take] } ∧
      ∃ t, step { State.reset with rsp := [5, 0, 0, 0, 0], host := [.take] } = .next t :=
  ⟨⟨by decide +kernel, _, rfl⟩, ⟨by decide +kernel, _, rfl⟩, by decide +kernel, _, rfl⟩

theorem witness_OnlyDeriveScheduleOrResetChangesTheSchedule :
    (∃ t, step (sending (0x01#8 :: countedBytes zeros) State.reset) = .next t) ∧
    (∃ t, step { held keyV1 with host := [.reset] } = .next t) ∧
    ∃ t, step { State.reset with rsp := [5], host := [.take] } = .next t :=
  ⟨⟨_, rfl⟩, ⟨_, rfl⟩, _, rfl⟩

theorem witness_CommandsLeaveTheRestAlone :
    (∃ t, exec (.unpad [1]) State.reset = .next t) ∧ ∀ key, Instr.unpad [1] ≠ .deriveSchedule key :=
  ⟨⟨_, rfl⟩, by simp⟩

theorem witness_ResultsFitTheResponseLengthField :
    State.reset.cfg.wf ∧ (Instr.pad [1]).wellFormed State.reset.cfg = true ∧
    ∃ t, exec (.pad [1]) State.reset = .next t := ⟨by decide, by decide, _, rfl⟩

theorem witness_FailedCommandLeavesNoTrace :
    ∃ t, exec (.unpad []) (held keyV1) = .next t ∧ t.rsp.head? ≠ some 0x00#8 :=
  ⟨_, rfl, by decide⟩

theorem witness_HiddenStateIsNeverObserved :
    SameToHost State.reset { State.reset with rk := keyExpansion keyV1, freeCount := 7 } ∧
    SameToHost (sending [0x00] (held keyV1))
      { sending [0x00] (held keyV1) with work := loadKey plainV1 Work.reset } := by
  unfold SameToHost
  decide +kernel

theorem witness_StepRefinesTheDispatchFunction :
    (sending (0x02#8 :: zeros) State.reset).rsp = [] ∧ 0x02#8 :: zeros ≠ [] ∧
    (sending (0x02#8 :: zeros) State.reset).host = sendFrame (0x02#8 :: zeros) ++ [] := by decide

theorem witness_SessionDeliversTheResponsesInOrder :
    ({ State.reset with
        host := sessionActions State.reset.cfg (persistent State.reset)
          [[0x00], bytesOf 7 0x05000000020503] } : State).rsp = [] ∧
    (∀ f ∈ [[0x00], bytesOf 7 0x05000000020503], f ≠ []) ∧
    ({ State.reset with
        host := sessionActions State.reset.cfg (persistent State.reset)
          [[0x00], bytesOf 7 0x05000000020503] } : State).host =
      sessionActions State.reset.cfg (persistent State.reset)
        [[0x00], bytesOf 7 0x05000000020503] ++ [] := by decide +kernel

theorem witness_InstancesDoNotInterfere :
    0 ≠ 1 ∧
    (∃ z, stepInstance 0 [sending [0x00] State.reset, sending [0x08] (held keyV1)] = some z) ∧
    ∃ x, stepInstance 1 [sending [0x00] State.reset, sending [0x08] (held keyV1)] = some x :=
  ⟨by decide, ⟨_, rfl⟩, _, rfl⟩

theorem witness_FieldMultiplicationLaws : gmul 0x00#8 0x57#8 = 0x00#8 := by decide

theorem witness_FieldInverseIsTheInverse : 0x53#8 ≠ 0x00#8 ∧ gmul 0x53#8 0xca#8 = 0x01#8 := by decide

theorem witness_InverseSboxUndoesSbox : sbox 0x53#8 = 0xed#8 := by decide

theorem witness_RoundConstantsArePowersOfX : 2 ≤ 2 ∧ 2 ≤ 10 ∧ 1 ≤ 1 ∧ 1 ≤ 10 := by decide

theorem witness_StateIsLoadedByColumns : 0 < 4 ∧ 3 < 4 := by decide

theorem witness_ShiftRowsRotatesRowByItsNumber : 0 < 4 ∧ 3 < 4 ∧ 0 < 16 ∧ 15 < 16 := by decide

theorem witness_KeyExpansionFollowsTheRecurrence :
    (held keyV1).rk = keyExpansion keyV1 ∧ 0 < 4 ∧ 3 < 4 ∧ (4 ≤ 4 ∧ 4 < 44) ∧ (4 ≤ 43 ∧ 43 < 44) ∧
    (1 ≤ 1 ∧ 1 ≤ 10) ∧ (1 ≤ 10 ∧ 10 ≤ 10) ∧ (4 ≤ 4 ∧ 4 < 16) ∧ (4 ≤ 15 ∧ 15 < 16) := by
  refine ⟨rfl, ?_⟩
  decide

theorem witness_EveryRoundKeyDeterminesTheKey :
    0 ≤ 10 ∧ 10 ≤ 10 ∧
    scheduleKey (keyExpansion keyV1) 10 =
      scheduleKey (keyExpansion (blockOf 0x000102030405060708090a0b0c0d0e0f)) 10 := by decide +kernel

theorem witness_DecryptUndoesEncrypt :
    (held keyV1).ksValid = true ∧
    exec (.encryptBlock plainV1) (held keyV1) =
      .next (answered (held keyV1) 0x00#8 (blockBytes (cipher (held keyV1).rk plainV1))) := ⟨rfl, rfl⟩

theorem witness_EncryptUndoesDecrypt :
    (held keyV1).ksValid = true ∧
    cipher (held keyV1).rk plainV1 =
      cipher (held keyV1).rk (blockOf 0x00112233445566778899aabbccddeeff) ∧
    exec (.decryptBlock plainV1) (held keyV1) =
      .next (answered (held keyV1) 0x00#8 (blockBytes (invCipher (held keyV1).rk plainV1))) :=
  ⟨rfl, rfl, rfl⟩

theorem witness_PadHasTheStatedProperties :
    16 = 16 - zeros.length % 16 ∧ 1 = 16 - (zeros.take 15).length % 16 ∧ pad [0x41] = pad [BitVec.ofNat 8 65] := by decide

theorem witness_UnpadUndoesPad :
    exec (.pad [0x41]) State.reset =
      .next (answered State.reset 0x00#8 (bytesOf 16 0x410f0f0f0f0f0f0f0f0f0f0f0f0f0f0f)) ∧
    (pad [0x41]).length ≠ 0 ∧ (pad [0x41]).length % 16 = 0 ∧ unpad true (pad [0x41]) = some [0x41] :=
  ⟨rfl, by decide, by decide, by decide⟩

theorem witness_StrictUnpadOnlyRejectsMore :
    [0x41#8, 0x03, 0x02].getLast? = some 0x02#8 ∧ 1 ≤ (0x02#8).toNat ∧ (0x02#8).toNat ≤ 16 ∧
    (0x02#8).toNat ≤ [0x41#8, 0x03, 0x02].length ∧
    (∃ y ∈ [0x41#8, 0x03, 0x02].drop ([0x41#8, 0x03, 0x02].length - (0x02#8).toNat), y ≠ 0x02#8) ∧
    (List.replicate 16 0x10#8).getLast? = some 0x10#8 ∧ (0x10#8).toNat ≤ 16 ∧
    unpad true [0x41, 0x02, 0x02] = some [0x41] ∧ unpad false [0x05, 0x03] = none := by decide

theorem witness_CbcEncryptHasTheStatedProperties :
    (bufBlocks (pad (zeros ++ [0x41]))).take (0 + 1) = (bufBlocks (pad (zeros ++ [0x42]))).take (0 + 1) ∧
    cbcEncrypt (keyExpansion keyV1) .zero [0x41] =
      cbcEncrypt (keyExpansion keyV1) .zero [BitVec.ofNat 8 65] := ⟨by decide, rfl⟩

/-- The two plaintexts of V34, shortened to two blocks: they differ in block 1. -/
theorem witness_PlaintextChangeDiffusesForward :
    (zeros ++ zeros).length = (zeros ++ 0x01#8 :: zeros.take 15).length ∧
    (∀ i, i < 1 → (bufBlocks (pad (zeros ++ zeros)))[i]? =
      (bufBlocks (pad (zeros ++ 0x01#8 :: zeros.take 15)))[i]?) ∧
    (bufBlocks (pad (zeros ++ zeros)))[1]? ≠ (bufBlocks (pad (zeros ++ 0x01#8 :: zeros.take 15)))[1]? ∧
    1 < 2 ∧ 2 < (bufBlocks (pad (zeros ++ zeros))).length ∧
    (bufBlocks (pad (zeros ++ zeros)))[2]? = (bufBlocks (pad (zeros ++ 0x01#8 :: zeros.take 15)))[2]? ∧
    (∀ i, 1 < i → (bufBlocks (pad (zeros ++ zeros)))[i]? =
      (bufBlocks (pad (zeros ++ 0x01#8 :: zeros.take 15)))[i]?) ∧
    (bufBlocks (cbcEncrypt (keyExpansion keyV1) .zero (zeros ++ zeros)))[2 - 1]? ≠
      (bufBlocks (cbcEncrypt (keyExpansion keyV1) .zero (zeros ++ 0x01#8 :: zeros.take 15)))[2 - 1]? := by
  have hP : (bufBlocks (pad (zeros ++ zeros))).drop 2 =
      (bufBlocks (pad (zeros ++ 0x01#8 :: zeros.take 15))).drop 2 := by decide +kernel
  refine ⟨by decide +kernel, by decide +kernel, by decide +kernel, by decide, by decide +kernel,
    by decide +kernel, fun i hi => ?_, by decide +kernel⟩
  have h := congrArg (fun l : List Block => l[i - 2]?) hP
  simpa only [List.getElem?_drop, Nat.add_sub_cancel' hi] using h

/-- At the boundary of the proviso: MAX_DATA_LEN is the length of the ciphertext, 32 bytes, for the
longest plaintext of the first clause, 16 bytes, and for the 25 bytes of V31, which exceed it. -/
theorem witness_CbcDecryptUndoesCbcEncrypt :
    (limitedCore 32).ksValid = true ∧ (lax (held keyV1)).ksValid = true ∧
    (lax (held keyV1)).rk = (limitedCore 32).rk ∧ (limitedCore 32).cfg.wf ∧
    (zeros.length + 16 ≤ (limitedCore 32).cfg.maxDataLen ∧
      ∃ c, c.length = 32 ∧ c.length ≤ (limitedCore 32).cfg.maxDataLen ∧
        exec (.cbcEncrypt zeros zeros) (limitedCore 32) =
          .next (answered (limitedCore 32) 0x00#8 c)) ∧
    ∃ c, c.length = 32 ∧ c.length ≤ (limitedCore 32).cfg.maxDataLen ∧
      exec (.cbcEncrypt zeros messageV31) (limitedCore 32) =
        .next (answered (limitedCore 32) 0x00#8 c) :=
  ⟨rfl, rfl, rfl, by decide,
    ⟨by decide, (chainRun .pre (limitedCore 32).rk .zero
      (padInput (loadBuffers zeros (limitedCore 32).work))).obuf, by decide +kernel, by decide +kernel, rfl⟩,
    (chainRun .pre (limitedCore 32).rk .zero
      (padInput (loadBuffers messageV31 (limitedCore 32).work))).obuf, by decide +kernel,
    by decide +kernel, rfl⟩

theorem witness_WrongIvSpoilsOnlyTheFirstBlock :
    (held keyV1).ksValid = true ∧ 16 < cipherV31.length ∧
    ∃ d, exec (.cbcDecrypt (blockBytes .zero) cipherV31) (held keyV1) =
      .next (answered (held keyV1) 0x00#8 d) := by
  refine ⟨rfl, by decide, messageV31, ?_⟩
  have h : unpad true (chainRun .post (held keyV1).rk .zero
      (loadBuffers cipherV31 (held keyV1).work)).obuf = some messageV31 := by decide +kernel
  show (if ciphertextLengthOk cipherV31 then
      match unpad true (chainRun .post (held keyV1).rk .zero
        (loadBuffers cipherV31 (held keyV1).work)).obuf with
      | some d => Host.Outcome.next (answered (held keyV1) 0x00#8 d)
      | none => Host.Outcome.next (answered (held keyV1) 0x04#8 [])
    else Host.Outcome.next (answered (held keyV1) 0x03#8 [])) = _
  rw [if_pos (by decide), h]

theorem witness_BlockCommandsAloneMakeCbc :
    (held keyV1).ksValid = true ∧ cipherV31.length ≠ 0 ∧ cipherV31.length % 16 = 0 :=
  ⟨rfl, by decide, by decide⟩

/-- P6: the two ciphertext blocks of V31 by the block commands. -/
theorem test_host_cbc :
    hostCipherBlocks (held keyV1) .zero (bufBlocks (pad messageV31)) = some cipherV31 ∧
    hostPlainBlocks (held keyV1) .zero (bufBlocks cipherV31) = some (pad messageV31) := by decide +kernel

/-- Instances of one system use different indexes for their free values, and go on doing so (log 15). -/
theorem test_system_free_indexes :
    (systemReset { Config.recommended with nInst := 2 }).map (fun s => (s.freeCount, nextFree s)) =
      [(2, 4), (3, 5)] := rfl

end Sys2Proof.Tests
end

section
/-! PROOFS. The length field and the counted strings that begin with it (00_scope.md R12, 30_encoding.md
R64 to R71). -/

namespace Sys2Proof

/-- Four bytes make a number below 2^32 (00_scope.md R12). -/
theorem unbe32_lt (a b c d : Byte) : unbe32 a b c d < 4294967296 := by
  have ha := a.isLt
  have hb := b.isLt
  have hc := c.isLt
  have hd := d.isLt
  unfold unbe32
  omega

/-- The bytes of a number below 2^32 are its digits to the base 256, and they read back. -/
theorem be32_digits {n : Nat} (hn : n < 4294967296) :
    ∃ a b c d : Byte, be32 n = [a, b, c, d] ∧ unbe32 a b c d = n ∧ a.toNat = n / 16777216 ∧
      b.toNat = n / 65536 % 256 ∧ c.toNat = n / 256 % 256 ∧ d.toNat = n % 256 := by
  refine ⟨_, _, _, _, rfl, ?_, ?_, ?_, ?_, ?_⟩ <;> simp only [unbe32, BitVec.toNat_ofNat] <;> omega

/-- The number four bytes make has these bytes. -/
theorem be32_unbe32 (a b c d : Byte) : be32 (unbe32 a b c d) = [a, b, c, d] := by
  obtain ⟨a', b', c', d', hbytes, -, ha, hb, hc, hd⟩ := be32_digits (unbe32_lt a b c d)
  have := a.isLt
  have := b.isLt
  have := c.isLt
  have := d.isLt
  rw [hbytes]
  simp only [List.cons.injEq, ← BitVec.toNat_inj, ha, hb, hc, hd, and_true, unbe32]
  omega

/-- A length field is four bytes. -/
@[simp] theorem be32_length (n : Nat) : (be32 n).length = 4 := rfl

/-- What is read as a counted string stood at the front with its length field (30_encoding.md R64). -/
theorem takeCounted_ok {body v rest : List Byte} (h : takeCounted body = .ok (v, rest)) :
    body = countedBytes v ++ rest ∧ fitsLengthField v = true := by
  unfold takeCounted at h
  split at h
  · rename_i a b c d tail
    split at h
    · rename_i hle
      obtain ⟨rfl, rfl⟩ : tail.take (unbe32 a b c d) = v ∧ tail.drop (unbe32 a b c d) = rest := by
        simpa using h
      have hlen : (tail.take (unbe32 a b c d)).length = unbe32 a b c d := by simpa using hle
      constructor
      · simp [countedBytes, hlen, be32_unbe32]
      · simpa [fitsLengthField, hlen] using unbe32_lt a b c d
    · cases h
  · cases h

/-- A counted string read as the last operand is the whole of the bytes (30_encoding.md R63). -/
theorem takeLast_ok {body v : List Byte} (h : takeLast body = .ok v) :
    body = countedBytes v ∧ fitsLengthField v = true := by
  unfold takeLast at h
  split at h
  · cases h
  · rename_i w htake
    obtain rfl : w = v := by simpa using h
    simpa using takeCounted_ok htake
  · cases h

/-- A data operand that is read is the whole of the bytes and within its limit (30_encoding.md R69). -/
theorem takeData_ok {c : Config} {body v : List Byte} (h : takeData c body = .ok v) :
    body = countedBytes v ∧ fitsDataLimit c v = true := by
  unfold takeData at h
  split at h
  · cases h
  · rename_i w htake
    split at h
    · rename_i hle
      obtain rfl : w = v := by simpa using h
      obtain ⟨hbody, hfits⟩ := takeLast_ok htake
      exact ⟨hbody, by simp [fitsDataLimit, hle, hfits]⟩
    · cases h

/-- The operands of format C, when they are read, are the whole of the bytes (30_encoding.md R68). -/
theorem takeIvData_ok {c : Config} {body : List Byte} {p : List Byte × List Byte}
    (h : takeIvData c body = .ok p) :
    body = countedBytes p.1 ++ countedBytes p.2 ∧
      fitsLengthField p.1 = true ∧ fitsDataLimit c p.2 = true := by
  unfold takeIvData at h
  split at h
  · cases h
  · rename_i iv rest hiv
    split at h
    · cases h
    · rename_i data hdata
      obtain rfl : (iv, data) = p := by simpa using h
      obtain ⟨rfl, hfits⟩ := takeCounted_ok hiv
      obtain ⟨rfl, hlimit⟩ := takeData_ok hdata
      exact ⟨rfl, hfits, hlimit⟩

/-- A mapped reading succeeds exactly when the reading does. -/
theorem exceptMap_eq_ok {ε α β : Type} {g : α → β} {x : Except ε α} {y : β} :
    x.map g = .ok y ↔ ∃ v, x = .ok v ∧ g v = y := by
  cases x <;> simp [Except.map]

/-- The decoder only accepts commands within the limits (30_encoding.md R64, R69, R71). -/
theorem decode_ok_wellFormed {c : Config} {f : List Byte} {i : Instr} (h : decode c f = .ok i) :
    i.wellFormed c = true := by
  cases f with
  | nil => cases h
  | cons opc body =>
    simp only [decode] at h
    split_ifs at h
    · obtain ⟨key, hkey, rfl⟩ := exceptMap_eq_ok.mp h
      exact (takeLast_ok hkey).2
    · obtain ⟨block, -, rfl⟩ := exceptMap_eq_ok.mp h
      rfl
    · obtain ⟨block, -, rfl⟩ := exceptMap_eq_ok.mp h
      rfl
    · obtain ⟨data, hdata, rfl⟩ := exceptMap_eq_ok.mp h
      exact (takeData_ok hdata).2
    · obtain ⟨data, hdata, rfl⟩ := exceptMap_eq_ok.mp h
      exact (takeData_ok hdata).2
    · obtain ⟨p, hp, rfl⟩ := exceptMap_eq_ok.mp h
      obtain ⟨-, hiv, hdata⟩ := takeIvData_ok hp
      simp [Instr.wellFormed, hiv, hdata]
    · obtain ⟨p, hp, rfl⟩ := exceptMap_eq_ok.mp h
      obtain ⟨-, hiv, hdata⟩ := takeIvData_ok hp
      simp [Instr.wellFormed, hiv, hdata]

/-- Settles O5: the digits of a number below 2^32 to the base 256 are its four bytes, and four bytes are
the digits of the number they make. -/
theorem lengthFieldsAreBigEndian : Obligations.LengthFieldsAreBigEndian :=
  ⟨fun _ hn => be32_digits hn, fun a b c d => ⟨unbe32_lt a b c d, be32_unbe32 a b c d⟩⟩

end Sys2Proof

end

section
/-! PROOFS. How long the results of the padding engine and the chaining unit are (43_padding.md, 44_cbc.md). -/

namespace Sys2Proof.Machine

open Sys2Proof

/-- `pad` appends at most sixteen bytes (43_padding.md R151). -/
theorem pad_length_le (data : List Byte) : (pad data).length ≤ data.length + 16 := by
  simp [pad, padCount]

/-- What `unpad` returns is the front of its data (43_padding.md R155). -/
theorem unpad_prefix {strict : Bool} {data d : List Byte} (h : unpad strict data = some d) :
    d <+: data := by
  unfold unpad at h
  split at h
  · cases h
  · split_ifs at h
    obtain rfl := Option.some.inj h
    exact List.take_prefix _ _

/-- A block step appends sixteen bytes to OBUF. -/
theorem chainStep_obuf_length (a : ArbiterSetting) (rk : Schedule) (w : Work) (i : Nat) :
    (chainStep a rk w i).obuf.length = w.obuf.length + 16 := by
  obtain ⟨b, hb⟩ := chainStep_obuf a rk w i
  simp [hb]

/-- The block steps append sixteen bytes each. -/
theorem foldl_chainStep_obuf_length (a : ArbiterSetting) (rk : Schedule) (is : List Nat) (w : Work) :
    (is.foldl (chainStep a rk) w).obuf.length = w.obuf.length + 16 * is.length := by
  induction is generalizing w with
  | nil => rfl
  | cons i is ih =>
    rw [List.foldl_cons, ih, chainStep_obuf_length, List.length_cons]
    omega

/-- The block loop appends as many bytes as IBUF has in whole blocks (44_cbc.md R170, R175). -/
theorem chainRun_obuf_length (a : ArbiterSetting) (rk : Schedule) (iv : Block) (w : Work) :
    (chainRun a rk iv w).obuf.length = w.obuf.length + 16 * (w.ibuf.length / 16) := by
  simp [chainRun, foldl_chainStep_obuf_length]

/-- The block loop of a command appends at most as many bytes as IBUF has. -/
theorem chainRun_obuf_length_le (a : ArbiterSetting) (rk : Schedule) (iv : Block) {w : Work}
    (hw : w.obuf = []) : (chainRun a rk iv w).obuf.length ≤ w.ibuf.length := by
  rw [chainRun_obuf_length, hw, List.length_nil]
  omega

end Sys2Proof.Machine
end

section
/-! PROOFS. How a command is answered (00_scope.md R15, 30_encoding.md R72 to R76). -/

namespace Sys2Proof.Machine

open Sys2Proof

/-- The length of a command's DATA operand (30_encoding.md R69); 0 where it has none. -/
def dataLength : Instr → Nat
  | .deriveSchedule _ => 0
  | .encryptBlock _ => 0
  | .decryptBlock _ => 0
  | .pad data => data.length
  | .unpad data => data.length
  | .cbcEncrypt _ data => data.length
  | .cbcDecrypt _ data => data.length

/-- A well-formed command's data is within MAX_DATA_LEN (30_encoding.md R69). -/
theorem dataLength_le_of_wellFormed {c : Config} {i : Instr} (h : i.wellFormed c = true) :
    dataLength i ≤ c.maxDataLen := by
  cases i <;> simp_all [Instr.wellFormed, fitsDataLimit, dataLength]

/-- The states in which a command can leave the core: `exec_answers` ties it to `exec`. Only the schedule
of a sixteen-byte key is loaded; a result is at most sixteen bytes longer than the data; an error carries
no data. -/
inductive Answers (s : State) : Instr → State → Prop where
  /-- `DERIVE_SCHEDULE` answered OK (41_key_expansion.md R120). -/
  | schedule (k : Block) :
      Answers s (.deriveSchedule (blockBytes k))
        (answered (loadSchedule (keyExpansion k) s) 0x00#8 [])
  /-- A command answered OK with its result. -/
  | result {i : Instr} (data : List Byte) (fits : data.length ≤ dataLength i + 16) :
      Answers s i (answered s 0x00#8 data)
  /-- A command answered with an error (60_exceptions.md R196). -/
  | error {i : Instr} (e : ErrorCode) : Answers s i (answered s (errorStatus e) [])

/-- The outcome of a command is a state in which it can leave the core. -/
def IsAnswered (i : Instr) (s : State) (o : Host.Outcome State Fault Refusal) : Prop :=
  ∃ t, o = .next t ∧ Answers s i t

variable {i : Instr} {s : State}

/-- `return v` answers a command, if `v` is not too long for it. -/
theorem isAnswered_complete {v : List Byte} (hv : v.length ≤ dataLength i + 16) :
    IsAnswered i s (complete v s) :=
  ⟨_, complete_eq v s, .result v hv⟩

/-- `raise E` answers any command. -/
theorem isAnswered_raise (e : ErrorCode) : IsAnswered i s (raise e s) :=
  ⟨_, raise_eq e s, .error e⟩

/-- NoSchedule is an answer, so only the run with a schedule is left to answer (60_exceptions.md R194). -/
theorem isAnswered_requireSchedule {run : Schedule → Host.Outcome State Fault Refusal}
    (h : ∀ rk, IsAnswered i s (run rk)) : IsAnswered i s (requireSchedule s run) := by
  obtain ⟨-, hrun⟩ | ⟨-, herr⟩ := requireSchedule_cases s run
  · exact hrun ▸ h s.rk
  · exact herr ▸ isAnswered_raise .noSchedule

/-- The error of a wrong length is an answer, so only the run on a block is left to answer
(60_exceptions.md R192, R193). -/
theorem isAnswered_requireBlock {bytes : List Byte} {e : ErrorCode}
    {run : Block → Host.Outcome State Fault Refusal}
    (h : ∀ b, bytes = blockBytes b → IsAnswered i s (run b)) :
    IsAnswered i s (requireBlock bytes e s run) := by
  obtain ⟨b, hb, hrun⟩ | ⟨-, herr⟩ := requireBlock_cases bytes e s run
  · exact hrun ▸ h b hb
  · exact herr ▸ isAnswered_raise e

variable (s)

/-- `DERIVE_SCHEDULE`: a sixteen-byte key, or InvalidKeyLength (41_key_expansion.md R120, R121). -/
theorem isAnswered_deriveSchedule (key : List Byte) :
    IsAnswered (.deriveSchedule key) s (execDeriveSchedule key s) := by
  apply isAnswered_requireBlock
  rintro k rfl
  exact ⟨_, rfl, .schedule k⟩

/-- `ENCRYPT_BLOCK`: one block, or NoSchedule (42_block_cipher.md R130). -/
theorem isAnswered_encryptBlock (block : Block) :
    IsAnswered (.encryptBlock block) s (execEncryptBlock block s) :=
  isAnswered_requireSchedule fun rk => isAnswered_complete (by simp)

/-- `DECRYPT_BLOCK`: one block, or NoSchedule (42_block_cipher.md R134). -/
theorem isAnswered_decryptBlock (block : Block) :
    IsAnswered (.decryptBlock block) s (execDecryptBlock block s) :=
  isAnswered_requireSchedule fun rk => isAnswered_complete (by simp)

/-- `PAD`: the padded data, never an error (43_padding.md R150). -/
theorem isAnswered_pad (data : List Byte) : IsAnswered (.pad data) s (execPad data s) :=
  isAnswered_complete (pad_length_le data)

/-- `UNPAD`: a front of the data, or InvalidPadding (43_padding.md R154). -/
theorem isAnswered_unpad (data : List Byte) : IsAnswered (.unpad data) s (execUnpad data s) := by
  unfold execUnpad
  dsimp only
  split
  · rename_i d hd
    exact isAnswered_complete (Nat.le_add_right_of_le (unpad_prefix hd).length_le)
  · exact isAnswered_raise .invalidPadding

/-- `CBC_ENCRYPT`: as many bytes as the padded data (44_cbc.md R170). -/
theorem isAnswered_cbcEncrypt (iv data : List Byte) :
    IsAnswered (.cbcEncrypt iv data) s (execCbcEncrypt iv data s) :=
  isAnswered_requireSchedule fun rk => isAnswered_requireBlock fun v _ =>
    isAnswered_complete ((chainRun_obuf_length_le .pre rk v rfl).trans (pad_length_le data))

/-- `CBC_DECRYPT`: a front of the chained blocks, or one of its errors (44_cbc.md R175). -/
theorem isAnswered_cbcDecrypt (iv data : List Byte) :
    IsAnswered (.cbcDecrypt iv data) s (execCbcDecrypt iv data s) := by
  refine isAnswered_requireSchedule fun rk => isAnswered_requireBlock fun v _ => ?_
  split_ifs
  · dsimp only
    split
    · rename_i d hd
      have hd_le := (unpad_prefix hd).length_le
      have hrun_le : _ ≤ data.length :=
        chainRun_obuf_length_le .post rk v (w := loadBuffers data s.work) rfl
      exact isAnswered_complete (Nat.le_add_right_of_le (hd_le.trans hrun_le))
    · exact isAnswered_raise .invalidPadding
  · exact isAnswered_raise .invalidCiphertextLength

/-- Every command in every state is answered (00_scope.md R15). -/
theorem exec_answers (i : Instr) : ∃ t, exec i s = .next t ∧ Answers s i t := by
  cases i with
  | deriveSchedule key => exact isAnswered_deriveSchedule s key
  | encryptBlock block => exact isAnswered_encryptBlock s block
  | decryptBlock block => exact isAnswered_decryptBlock s block
  | pad data => exact isAnswered_pad s data
  | unpad data => exact isAnswered_unpad s data
  | cbcEncrypt iv data => exact isAnswered_cbcEncrypt s iv data
  | cbcDecrypt iv data => exact isAnswered_cbcDecrypt s iv data

/-- All that the state after a command can be. -/
theorem answers_of_exec {t : State} (h : exec i s = .next t) : Answers s i t := by
  obtain ⟨u, hu, hans⟩ := exec_answers s i
  obtain rfl : u = t := by simpa [hu] using h
  exact hans

/-- The status of an error is one of 0x01 to 0x06 (30_encoding.md R73). -/
theorem errorStatus_toNat_le (e : ErrorCode) : (errorStatus e).toNat ≤ 6 := by
  cases e <;> decide

/-- Settles O29: by the three ways in which a command is answered. -/
theorem everyCommandIsAnsweredOnce : Obligations.EveryCommandIsAnsweredOnce := by
  intro i s
  obtain ⟨t, ht, hans⟩ := exec_answers s i
  cases hans with
  | schedule k => exact ⟨_, _, _, ht, rfl, by decide, fun _ => rfl⟩
  | result data _ => exact ⟨_, _, data, ht, rfl, by decide, fun hne => absurd rfl hne⟩
  | error e => exact ⟨_, _, _, ht, rfl, errorStatus_toNat_le e, fun _ => rfl⟩

end Sys2Proof.Machine
end

section
/-! PROOFS. The invariant of `Inv` under everything a step can do (10_state.md R23). -/

namespace Sys2Proof.Machine

open Sys2Proof

variable {s t : State}

/-- A whole frame is a command or is answered IllegalCommand (60_exceptions.md R195). -/
theorem runFrame_cases (f : List Byte) (s : State) :
    (∃ i, decode s.cfg f = .ok i ∧ runFrame f s = exec i s) ∨
    (∃ m, decode s.cfg f = .error m ∧ runFrame f s = .next (answered s 0x06#8 [])) := by
  unfold runFrame
  cases h : decode s.cfg f with
  | ok i => exact .inl ⟨i, rfl, rfl⟩
  | error m => exact .inr ⟨m, rfl, rfl⟩

/-- Collecting a frame moves no response byte (30_encoding.md R61). -/
theorem receiveFrame_ne_transfer (acc : List Byte) (host : List HostAction) (b : Byte)
    (more : List Byte) (rest : List HostAction) :
    receiveFrame acc host ≠ .transfer b more rest := by
  obtain ⟨f, r, hf, -⟩ | ⟨r, hr⟩ | ⟨why, hw⟩ := receiveFrame_cases acc host
  · simp [hf]
  · simp [hr]
  · simp [hw]

/-- A response byte moves when it is the next one offered (30_encoding.md R61). -/
theorem rsp_of_nextArrival_transfer {b : Byte} {more : List Byte} {rest : List HostAction}
    (h : nextArrival s = .transfer b more rest) : s.rsp = b :: more := by
  unfold nextArrival at h
  split at h
  case h_1 => exact absurd h (receiveFrame_ne_transfer _ _ _ _ _)
  case h_2 hrsp _ =>
    cases h
    exact hrsp
  all_goals cases h

/-- What the host is about to do is no part of the invariant. -/
theorem inv_withHost (hs : Inv s) (rest : List HostAction) : Inv { s with host := rest } := hs

/-- Loading the expansion of a key keeps the invariant (10_state.md R23). -/
theorem inv_loadSchedule (hs : Inv s) (k : Block) : Inv (loadSchedule (keyExpansion k) s) := by
  obtain ⟨hcfg, -, hrest⟩ := hs
  exact ⟨hcfg, fun _ => rfl, hrest⟩

/-- Answering with a result within the limit keeps the invariant (30_encoding.md R69, R72). -/
theorem inv_answered (hs : Inv s) (status : Byte) {data : List Byte}
    (hdata : data.length ≤ s.cfg.maxDataLen + 16) : Inv (answered s status data) := by
  obtain ⟨hcfg, hheld, -⟩ := hs
  refine ⟨hcfg, hheld, freeWork_rnd_le _ _, freeWork_blk_lt _ _, freeWork_ibuf_length _ _,
    freeWork_obuf_length _ _, ?_⟩
  simp only [answered_rsp, answered_cfg, List.length_cons, List.length_append, be32_length]
  omega

/-- The offered response only gets shorter when a byte of it moves. -/
theorem inv_transferByte (hs : Inv s) {b : Byte} {more : List Byte} (hrsp : s.rsp = b :: more) :
    Inv (transferByte b more s) := by
  obtain ⟨hcfg, hheld, hrnd, hblk, hibuf, hobuf, hlen⟩ := hs
  refine ⟨hcfg, hheld, hrnd, hblk, hibuf, hobuf, ?_⟩
  rw [hrsp, List.length_cons] at hlen
  exact (Nat.le_succ _).trans hlen

/-- Reset holds no schedule, empties the buffers and discards the response (10_state.md R34). -/
theorem inv_resetCore (hs : Inv s) : Inv (resetCore s) := by
  obtain ⟨hcfg, -⟩ := hs
  exact ⟨hcfg, nofun, freeWork_rnd_le s.cfg s.freeCount, freeWork_blk_lt s.cfg s.freeCount,
    Nat.zero_le _, Nat.zero_le _, Nat.zero_le _⟩

/-- A command within the limits keeps the invariant. -/
theorem inv_exec {i : Instr} (hs : Inv s) (hi : i.wellFormed s.cfg = true)
    (h : exec i s = .next t) : Inv t := by
  cases answers_of_exec s h with
  | schedule k => exact inv_answered (inv_loadSchedule hs k) _ (Nat.zero_le _)
  | result data fits =>
    have hlimit := dataLength_le_of_wellFormed hi
    exact inv_answered hs _ (by omega)
  | error e => exact inv_answered hs _ (Nat.zero_le _)

/-- A whole frame, well formed or not, keeps the invariant: the decoder only accepts commands within the
limits. -/
theorem inv_runFrame {f : List Byte} (hs : Inv s) (h : runFrame f s = .next t) : Inv t := by
  obtain ⟨i, hdec, hrun⟩ | ⟨m, -, hrun⟩ := runFrame_cases f s
  · exact inv_exec hs (decode_ok_wellFormed hdec) (hrun ▸ h)
  · obtain rfl : answered s 0x06#8 [] = t := by simpa [hrun] using h
    exact inv_answered hs _ (Nat.zero_le _)

/-- Settles O25: a step runs a frame, moves a response byte or resets, and each keeps the invariant. -/
theorem invariantIsKeptByEveryStep : Obligations.InvariantIsKeptByEveryStep := by
  intro s t hs hstep
  obtain ⟨f, rest, -, h⟩ | ⟨b, more, rest, harr, h⟩ | ⟨rest, -, h⟩ | ⟨why, -, h⟩ := step_cases s
    <;> rw [h] at hstep
  · exact inv_runFrame (inv_withHost hs rest) hstep
  · cases hstep
    have hrsp : s.rsp = b :: more := rsp_of_nextArrival_transfer harr
    exact inv_transferByte (inv_withHost hs rest) hrsp
  · cases hstep
    exact inv_resetCore (inv_withHost hs rest)
  · cases hstep

end Sys2Proof.Machine
end

section
/-! PROOFS. Reset, the event and the state after it (10_state.md R34, 70_reset_and_hazards.md R220, R221). -/

namespace Sys2Proof.Machine

open Sys2Proof

/-- Reset discards the bytes of a frame that has not ended (70_reset_and_hazards.md R221). -/
theorem receiveFrame_unfinished_reset (acc bs : List Byte) (rest : List HostAction) :
    receiveFrame acc (bs.map (fun b => .send b false) ++ .reset :: rest) = .reset rest := by
  induction bs generalizing acc with
  | nil => rfl
  | cons b bs ih => exact ih (acc ++ [b])

/-- Inside an unfinished frame the next arrival is the reset that ends it (70_reset_and_hazards.md R221). -/
theorem nextArrival_unfinished_reset {s : State} {bs : List Byte} {rest : List HostAction}
    (hrsp : s.rsp = []) (hhost : s.host = bs.map (fun b => .send b false) ++ .reset :: rest) :
    nextArrival s = .reset rest := by
  unfold nextArrival
  rw [hrsp, hhost]
  exact receiveFrame_unfinished_reset [] bs rest

/-- A reset that is the host's next action arrives, whether or not a response is offered
(70_reset_and_hazards.md R220). -/
theorem nextArrival_reset {s : State} {rest : List HostAction} (hhost : s.host = .reset :: rest) :
    nextArrival s = .reset rest := by
  cases hrsp : s.rsp with
  | nil => exact nextArrival_unfinished_reset (bs := []) hrsp hhost
  | cons b more =>
    unfold nextArrival
    rw [hrsp, hhost]

/-- A step in which reset arrives resets the core. -/
theorem step_of_nextArrival_reset {s : State} {rest : List HostAction}
    (h : nextArrival s = .reset rest) : step s = .next (resetCore { s with host := rest }) := by
  unfold step
  rw [h]
  rfl

/-- Settles O10: in each of the three places reset is the next arrival, and it clears the core. -/
theorem resetDiscardsWhatIsInFlight : Obligations.ResetDiscardsWhatIsInFlight := by
  intro s bs rest h
  have harr : nextArrival s = .reset rest := by
    obtain hhost | ⟨hrsp, hhost⟩ := h
    · exact nextArrival_reset hhost
    · exact nextArrival_unfinished_reset hrsp hhost
  exact ⟨_, step_of_nextArrival_reset harr, rfl, rfl, rfl, rfl, rfl, rfl, rfl⟩

/-- Settles O11: by the fields of the reset state. -/
theorem resetStateHoldsNoSchedule : Obligations.ResetStateHoldsNoSchedule :=
  ⟨rfl, rfl, rfl, rfl, rfl, rfl⟩

/-- Settles O26: no schedule is held, every counter is zero and every buffer is empty. -/
theorem invariantHoldsAtReset : Obligations.InvariantHoldsAtReset := by
  have hcfg : State.reset.cfg.wf := by decide
  exact ⟨hcfg, nofun, Nat.zero_le _, Nat.zero_lt_succ _, Nat.zero_le _, Nat.zero_le _, Nat.zero_le _⟩

end Sys2Proof.Machine
end

section
/-! PROOFS. What a command changes and what it leaves alone (10_state.md R20, R22, R28, R31). -/

namespace Sys2Proof.Machine

open Sys2Proof

variable {s t : State}

/-- A command keeps the schedule as it is, unless it is a `DERIVE_SCHEDULE` with a sixteen-byte key: that
loads its expansion (10_state.md R22). -/
theorem exec_schedule_cases {i : Instr} (h : exec i s = .next t) :
    (t.ksValid = s.ksValid ∧ t.rk = s.rk) ∨
    (∃ k, i = .deriveSchedule (blockBytes k) ∧ t.ksValid = true ∧ t.rk = keyExpansion k) := by
  cases answers_of_exec s h with
  | schedule k => exact .inr ⟨k, rfl, rfl, rfl⟩
  | result data _ => exact .inl ⟨rfl, rfl⟩
  | error e => exact .inl ⟨rfl, rfl⟩

/-- A frame keeps the schedule as it is, unless it is that of a `DERIVE_SCHEDULE` with a sixteen-byte key
(10_state.md R22, 60_exceptions.md R196). -/
theorem runFrame_schedule_cases {f : List Byte} (h : runFrame f s = .next t) :
    (t.ksValid = s.ksValid ∧ t.rk = s.rk) ∨
    (∃ k, decode s.cfg f = .ok (.deriveSchedule (blockBytes k)) ∧
      t.ksValid = true ∧ t.rk = keyExpansion k) := by
  obtain ⟨i, hdec, hrun⟩ | ⟨m, -, hrun⟩ := runFrame_cases f s
  · obtain hkept | ⟨k, rfl, hloaded⟩ := exec_schedule_cases (hrun ▸ h)
    · exact .inl hkept
    · exact .inr ⟨k, hdec, hloaded⟩
  · obtain rfl : answered s 0x06#8 [] = t := by simpa [hrun] using h
    exact .inl ⟨rfl, rfl⟩

/-- Settles O28: by the three ways in which a command is answered, none of which touches the rest. -/
theorem commandsLeaveTheRestAlone : Obligations.CommandsLeaveTheRestAlone := by
  intro i s t h
  have hschedule : (∀ key, i ≠ .deriveSchedule key) → t.rk = s.rk ∧ t.ksValid = s.ksValid := by
    intro hne
    obtain ⟨hks, hrk⟩ | ⟨k, hi, -⟩ := exec_schedule_cases h
    · exact ⟨hrk, hks⟩
    · exact absurd hi (hne _)
  cases answers_of_exec s h with
  | schedule k => exact ⟨rfl, rfl, rfl, rfl, rfl, hschedule⟩
  | result data _ => exact ⟨rfl, rfl, rfl, rfl, rfl, hschedule⟩
  | error e => exact ⟨rfl, rfl, rfl, rfl, rfl, hschedule⟩

/-- Settles O27: by what arrives; a frame can only load an expansion, a transfer keeps the schedule and
reset drops it. -/
theorem onlyDeriveScheduleOrResetChangesTheSchedule :
    Obligations.OnlyDeriveScheduleOrResetChangesTheSchedule := by
  intro s t hstep
  obtain ⟨f, rest, harr, h⟩ | ⟨b, more, rest, -, h⟩ | ⟨rest, harr, h⟩ | ⟨why, -, h⟩ := step_cases s
    <;> rw [h] at hstep
  · obtain hkept | ⟨k, hdec, hloaded⟩ := runFrame_schedule_cases hstep
    · exact .inl hkept
    · exact .inr (.inr ⟨f, rest, k, harr, hdec, hloaded⟩)
  · cases hstep
    exact .inl ⟨rfl, rfl⟩
  · cases hstep
    exact .inr (.inl ⟨rest, harr, rfl⟩)
  · cases hstep

end Sys2Proof.Machine
end

section
/-! PROOFS. The chaining unit reads only IBUF, OBUF and CHAIN, which every CBC command loads first
(10_state.md R26 to R28). -/

namespace Sys2Proof.Machine

open Sys2Proof

/-- Transient registers that agree in those the chaining unit reads before it writes them. -/
def SameChainInput (w u : Work) : Prop := w.ibuf = u.ibuf ∧ w.obuf = u.obuf ∧ w.chain = u.chain

variable {w u : Work}

/-- A block step takes nothing from the other registers: it writes ST, RND, BLK and CTSAVE itself. -/
theorem sameChainInput_chainStep (h : SameChainInput w u) (a : ArbiterSetting) (rk : Schedule) (i : Nat) :
    SameChainInput (chainStep a rk w i) (chainStep a rk u i) := by
  obtain ⟨hibuf, hobuf, hchain⟩ := h
  cases a with
  | pre => simp [SameChainInput, chainStep_pre, hibuf, hobuf, hchain]
  | post => simp [SameChainInput, chainStep_post, hibuf, hobuf, hchain]

/-- Nor does any number of block steps. -/
theorem sameChainInput_foldl (h : SameChainInput w u) (a : ArbiterSetting) (rk : Schedule)
    (is : List Nat) : SameChainInput (is.foldl (chainStep a rk) w) (is.foldl (chainStep a rk) u) := by
  induction is generalizing w u with
  | nil => exact h
  | cons i is ih => exact ih (sameChainInput_chainStep h a rk i)

/-- The block loop's output is fixed by the two buffers; CHAIN comes from the IV (44_cbc.md R167). -/
theorem chainRun_obuf_congr (a : ArbiterSetting) (rk : Schedule) (iv : Block) (w u : Work)
    (hibuf : w.ibuf = u.ibuf) (hobuf : w.obuf = u.obuf) :
    (chainRun a rk iv w).obuf = (chainRun a rk iv u).obuf := by
  have hloaded : SameChainInput (loadChain iv w) (loadChain iv u) := ⟨hibuf, hobuf, rfl⟩
  unfold chainRun
  rw [hibuf]
  obtain ⟨-, hout, -⟩ := sameChainInput_foldl hloaded a rk (List.range (u.ibuf.length / 16))
  exact hout

end Sys2Proof.Machine
end

section
/-! PROOFS. No response depends on the transient registers, nor on `RK` while no schedule is held
(10_state.md R21, R28): every operation takes states that are the same to the host to such states. -/

namespace Sys2Proof.Machine

open Sys2Proof

variable {s t : State}

/-! ### The operations on the state -/

/-- The host's actions that are left are the same for both. -/
theorem sameToHost_withHost (h : SameToHost s t) (rest : List HostAction) :
    SameToHost { s with host := rest } { t with host := rest } := by
  obtain ⟨hcfg, hks, hrk, hrsp, -, hsent⟩ := h
  exact ⟨hcfg, hks, hrk, hrsp, rfl, hsent⟩

/-- The same answer keeps the states the same to the host, whatever the free values. -/
theorem sameToHost_answered (h : SameToHost s t) (status : Byte) (data : List Byte) :
    SameToHost (answered s status data) (answered t status data) := by
  obtain ⟨hcfg, hks, hrk, -, hhost, hsent⟩ := h
  exact ⟨hcfg, hks, hrk, rfl, hhost, hsent⟩

/-- A schedule loaded into both is the one that both then hold. -/
theorem sameToHost_loadSchedule (h : SameToHost s t) (rk : Schedule) :
    SameToHost (loadSchedule rk s) (loadSchedule rk t) := by
  obtain ⟨hcfg, -, -, hrsp, hhost, hsent⟩ := h
  exact ⟨hcfg, rfl, fun _ => rfl, hrsp, hhost, hsent⟩

/-- The same byte leaves both. -/
theorem sameToHost_transferByte (h : SameToHost s t) (b : Byte) (more : List Byte) :
    SameToHost (transferByte b more s) (transferByte b more t) := by
  obtain ⟨hcfg, hks, hrk, -, hhost, hsent⟩ := h
  refine ⟨hcfg, hks, hrk, rfl, hhost, ?_⟩
  rw [transferByte_sent, transferByte_sent, hsent]

/-- After reset neither holds a schedule, so the free values in `RK` are not seen
(70_reset_and_hazards.md R222). -/
theorem sameToHost_resetCore (h : SameToHost s t) : SameToHost (resetCore s) (resetCore t) := by
  obtain ⟨hcfg, -, -, -, hhost, hsent⟩ := h
  exact ⟨hcfg, rfl, nofun, rfl, hhost, hsent⟩

/-- The ports see only the offered response and the host's actions. -/
theorem nextArrival_congr (h : SameToHost s t) : nextArrival s = nextArrival t := by
  obtain ⟨-, -, -, hrsp, hhost, -⟩ := h
  unfold nextArrival
  rw [hrsp, hhost]

/-! ### The outcomes of a command -/

/-- Both outcomes are next states, and the host cannot tell them apart. -/
def SameNext (o p : Host.Outcome State Fault Refusal) : Prop :=
  ∃ s' t', o = .next s' ∧ p = .next t' ∧ SameToHost s' t'

/-- `return v` in both. -/
theorem sameNext_complete (h : SameToHost s t) {v v' : List Byte} (hv : v = v') :
    SameNext (complete v s) (complete v' t) := by
  subst hv
  exact ⟨_, _, complete_eq v s, complete_eq v t, sameToHost_answered h _ _⟩

/-- `raise E` in both. -/
theorem sameNext_raise (h : SameToHost s t) (e : ErrorCode) : SameNext (raise e s) (raise e t) :=
  ⟨_, _, raise_eq e s, raise_eq e t, sameToHost_answered h _ _⟩

/-- Both raise NoSchedule, or both run with the one schedule they hold: `RK` is read only while it is
held (10_state.md R21). -/
theorem sameNext_requireSchedule (h : SameToHost s t)
    {run run' : Schedule → Host.Outcome State Fault Refusal}
    (hrun : ∀ rk, SameNext (run rk) (run' rk)) :
    SameNext (requireSchedule s run) (requireSchedule t run') := by
  have ⟨_, hks, hrk, _⟩ := h
  unfold requireSchedule
  rw [← hks]
  split_ifs with hheld
  · exact hrk hheld ▸ hrun s.rk
  · exact sameNext_raise h .noSchedule

/-- Both run with the operand's block, or both raise the error of its length. -/
theorem sameNext_requireBlock (h : SameToHost s t) (bytes : List Byte) (e : ErrorCode)
    {run run' : Block → Host.Outcome State Fault Refusal}
    (hrun : ∀ b, SameNext (run b) (run' b)) :
    SameNext (requireBlock bytes e s run) (requireBlock bytes e t run') := by
  unfold requireBlock
  cases blockOfBytes bytes with
  | some b => exact hrun b
  | none => exact sameNext_raise h e

/-! ### The commands -/

/-- `DERIVE_SCHEDULE` expands KEYIN, which it has loaded from its operand (41_key_expansion.md R120). -/
theorem sameNext_deriveSchedule (h : SameToHost s t) (key : List Byte) :
    SameNext (execDeriveSchedule key s) (execDeriveSchedule key t) :=
  sameNext_requireBlock h key .invalidKeyLength fun k =>
    sameNext_complete (sameToHost_loadSchedule h (keyExpansion k)) rfl

/-- `ENCRYPT_BLOCK` runs ST from its operand (42_block_cipher.md R130). -/
theorem sameNext_encryptBlock (h : SameToHost s t) (block : Block) :
    SameNext (execEncryptBlock block s) (execEncryptBlock block t) :=
  sameNext_requireSchedule h fun _ => sameNext_complete h rfl

/-- `DECRYPT_BLOCK` runs ST from its operand (42_block_cipher.md R134). -/
theorem sameNext_decryptBlock (h : SameToHost s t) (block : Block) :
    SameNext (execDecryptBlock block s) (execDecryptBlock block t) :=
  sameNext_requireSchedule h fun _ => sameNext_complete h rfl

/-- `PAD` pads IBUF, which it has loaded from its operand (43_padding.md R150). -/
theorem sameNext_pad (h : SameToHost s t) (data : List Byte) :
    SameNext (execPad data s) (execPad data t) :=
  sameNext_complete h rfl

/-- `UNPAD` unpads IBUF, which it has loaded from its operand (43_padding.md R154). -/
theorem sameNext_unpad (h : SameToHost s t) (data : List Byte) :
    SameNext (execUnpad data s) (execUnpad data t) := by
  have ⟨hcfg, _⟩ := h
  unfold execUnpad
  dsimp only [loadBuffers_ibuf]
  rw [hcfg]
  cases unpad t.cfg.strictUnpad data with
  | some d => exact sameNext_complete h rfl
  | none => exact sameNext_raise h .invalidPadding

/-- `CBC_ENCRYPT` chains from the buffers it has loaded (44_cbc.md R170). -/
theorem sameNext_cbcEncrypt (h : SameToHost s t) (iv data : List Byte) :
    SameNext (execCbcEncrypt iv data s) (execCbcEncrypt iv data t) :=
  sameNext_requireSchedule h fun rk => sameNext_requireBlock h iv .invalidIVLength fun v =>
    sameNext_complete h (chainRun_obuf_congr .pre rk v (padInput (loadBuffers data s.work))
      (padInput (loadBuffers data t.work)) rfl rfl)

/-- `CBC_DECRYPT` chains from the buffers it has loaded, and unpads what it chained (44_cbc.md R175). -/
theorem sameNext_cbcDecrypt (h : SameToHost s t) (iv data : List Byte) :
    SameNext (execCbcDecrypt iv data s) (execCbcDecrypt iv data t) := by
  refine sameNext_requireSchedule h fun rk =>
    sameNext_requireBlock h iv .invalidIVLength fun v => ?_
  split_ifs
  · have ⟨hcfg, _⟩ := h
    dsimp only
    rw [hcfg, chainRun_obuf_congr .post rk v (loadBuffers data s.work) (loadBuffers data t.work) rfl rfl]
    cases unpad t.cfg.strictUnpad (chainRun .post rk v (loadBuffers data t.work)).obuf with
    | some d => exact sameNext_complete h rfl
    | none => exact sameNext_raise h .invalidPadding
  · exact sameNext_raise h .invalidCiphertextLength

/-- Every command answers both with the same response. -/
theorem sameNext_exec (h : SameToHost s t) (i : Instr) : SameNext (exec i s) (exec i t) := by
  cases i with
  | deriveSchedule key => exact sameNext_deriveSchedule h key
  | encryptBlock block => exact sameNext_encryptBlock h block
  | decryptBlock block => exact sameNext_decryptBlock h block
  | pad data => exact sameNext_pad h data
  | unpad data => exact sameNext_unpad h data
  | cbcEncrypt iv data => exact sameNext_cbcEncrypt h iv data
  | cbcDecrypt iv data => exact sameNext_cbcDecrypt h iv data

/-! ### The step -/

/-- Every frame, well formed or not, answers both with the same response: the decoder reads only the
parameters. -/
theorem sameNext_runFrame (h : SameToHost s t) (f : List Byte) :
    SameNext (runFrame f s) (runFrame f t) := by
  have ⟨hcfg, _⟩ := h
  unfold runFrame
  rw [hcfg]
  cases decode t.cfg f with
  | ok i => exact sameNext_exec h i
  | error m => exact sameNext_raise h .illegalCommand

/-- Whatever arrives at both, they both go on the same to the host, or both wait for the same reason. -/
theorem runArrival_sameToHost (h : SameToHost s t) (a : Arrival) :
    SameNext (runArrival a s) (runArrival a t) ∨
    (∃ why, runArrival a s = .fault why ∧ runArrival a t = .fault why) := by
  cases a with
  | frame f rest => exact .inl (sameNext_runFrame (sameToHost_withHost h rest) f)
  | transfer b more rest =>
    exact .inl ⟨_, _, rfl, rfl, sameToHost_transferByte (sameToHost_withHost h rest) b more⟩
  | reset rest => exact .inl ⟨_, _, rfl, rfl, sameToHost_resetCore (sameToHost_withHost h rest)⟩
  | waiting why => exact .inr ⟨why, rfl, rfl⟩

/-- Settles O32: the same arrives at both, and both do the same with it as far as the host can see. -/
theorem hiddenStateIsNeverObserved : Obligations.HiddenStateIsNeverObserved := by
  intro s t h
  unfold step
  rw [← nextArrival_congr h]
  exact runArrival_sameToHost h (nextArrival s)

end Sys2Proof.Machine
end

section
/-! PROOFS. Instances share nothing (20_memory.md R51, 60_exceptions.md R212). -/

namespace Sys2Proof.Machine

open Sys2Proof

/-- A step of an instance is the step of its own state, put back in its place. -/
theorem stepInstance_eq_some {i : Nat} {y z : System} :
    stepInstance i y = some z ↔ ∃ s t, y[i]? = some s ∧ step s = .next t ∧ z = y.set i t := by
  unfold stepInstance
  cases y[i]? with
  | none => simp
  | some s => cases hstep : step s <;> simp [hstep, eq_comm]

/-- Settles O35: a step of instance `i` replaces the state at place `i` alone, and what it puts there
depends on that state alone; replacements at two places commute. -/
theorem instancesDoNotInterfere : Obligations.InstancesDoNotInterfere := by
  refine ⟨?others, ?commute, fun _ _ _ => stepInstance_eq_some⟩
  case others =>
    intro y z i j hi hne
    obtain ⟨s, t, -, -, rfl⟩ := stepInstance_eq_some.mp hi
    exact List.getElem?_set_ne hne.symm
  case commute =>
    intro y x z i j hne hi hj
    obtain ⟨si, ti, hsi, hti, rfl⟩ := stepInstance_eq_some.mp hi
    obtain ⟨sj, tj, hsj, htj, rfl⟩ := stepInstance_eq_some.mp hj
    refine ⟨(y.set i ti).set j tj, stepInstance_eq_some.mpr ⟨sj, tj, ?_, htj, rfl⟩,
      stepInstance_eq_some.mpr ⟨si, ti, ?_, hti, List.set_comm ti tj hne⟩⟩
    · rw [List.getElem?_set_ne hne, hsj]
    · rw [List.getElem?_set_ne hne.symm, hsi]

end Sys2Proof.Machine
end

section
/-! PROOFS. The block loop of the chaining unit computes the equations of CBC (44_cbc.md R170, R175, "As
equations"). -/

namespace Sys2Proof.Machine

open Sys2Proof

/-- The equations that the block loop computes at a setting of the arbiter: `chainRun_obuf` ties them to
its registers. -/
def chainedBlocks : ArbiterSetting → Schedule → Block → List Block → List Block
  | .pre => cbcCipherBlocks
  | .post => cbcPlainBlocks

/-- The blocks that a run of block steps appends to OBUF are those of the equations, with CHAIN for the
previous block and the blocks read from IBUF. -/
theorem foldl_chainStep_obuf (a : ArbiterSetting) (rk : Schedule) (is : List Nat) (w : Work) :
    (is.foldl (chainStep a rk) w).obuf =
      w.obuf ++ joinBlocks (chainedBlocks a rk w.chain (is.map (bufBlock w.ibuf))) := by
  induction is generalizing w with
  | nil => cases a <;> simp [chainedBlocks, cbcCipherBlocks, cbcPlainBlocks, joinBlocks]
  | cons i is ih =>
    rw [List.foldl_cons, ih, chainStep_ibuf]
    cases a with
    | pre => simp [chainStep_pre, chainedBlocks, cbcCipherBlocks, joinBlocks]
    | post => simp [chainStep_post, chainedBlocks, cbcPlainBlocks, joinBlocks]

/-- The block loop appends the equations' blocks, with the IV for the block before the first. -/
theorem chainRun_obuf (a : ArbiterSetting) (rk : Schedule) (iv : Block) (w : Work) :
    (chainRun a rk iv w).obuf =
      w.obuf ++ joinBlocks (chainedBlocks a rk iv (bufBlocks w.ibuf)) :=
  foldl_chainStep_obuf a rk _ (loadChain iv w)

/-- `CBC_ENCRYPT`'s run of the registers is `cbc_encrypt` (44_cbc.md R170). -/
theorem chainRun_pre_obuf (rk : Schedule) (iv : Block) (data : List Byte) (w : Work) :
    (chainRun .pre rk iv (padInput (loadBuffers data w))).obuf = cbcEncrypt rk iv data :=
  chainRun_obuf .pre rk iv _

/-- `CBC_DECRYPT`'s run of the registers is the decrypted blocks end to end (44_cbc.md R175). -/
theorem chainRun_post_obuf (rk : Schedule) (iv : Block) (data : List Byte) (w : Work) :
    (chainRun .post rk iv (loadBuffers data w)).obuf =
      joinBlocks (cbcPlainBlocks rk iv (bufBlocks data)) :=
  chainRun_obuf .post rk iv _

end Sys2Proof.Machine
end

section
/-! PROOFS. The machine with its registers answers every command as the dispatch function on the pair
(`KS_VALID`, `RK`) does (30_encoding.md R76): the whole next state of a command and of a frame. -/

namespace Sys2Proof.Machine

open Sys2Proof

/-- The state with another persistent state in it. -/
def hold (p : Persistent) (s : State) : State := { s with ksValid := p.ksValid, rk := p.rk }

@[simp] theorem hold_cfg (p : Persistent) (s : State) : (hold p s).cfg = s.cfg := rfl
@[simp] theorem hold_host (p : Persistent) (s : State) : (hold p s).host = s.host := rfl
@[simp] theorem hold_sent (p : Persistent) (s : State) : (hold p s).sent = s.sent := rfl
@[simp] theorem persistent_hold (p : Persistent) (s : State) : persistent (hold p s) = p := rfl

/-- The state after a command that ends with this outcome (30_encoding.md R72, R76). -/
def answeredWith : Except ErrorCode (List Byte) → State → State
  | .ok v, s => answered s 0x00#8 v
  | .error e, s => answered s (errorStatus e) []

section answeredWith
variable (r : Except ErrorCode (List Byte)) (s : State)

@[simp] theorem answeredWith_rsp : (answeredWith r s).rsp = outcomeFrame r := by cases r <;> rfl
@[simp] theorem answeredWith_cfg : (answeredWith r s).cfg = s.cfg := by cases r <;> rfl
@[simp] theorem answeredWith_host : (answeredWith r s).host = s.host := by cases r <;> rfl
@[simp] theorem answeredWith_sent : (answeredWith r s).sent = s.sent := by cases r <;> rfl
@[simp] theorem persistent_answeredWith : persistent (answeredWith r s) = persistent s := by
  cases r <;> rfl

end answeredWith

/-- What a run with the schedule is answered with, is answered where one is held; NoSchedule where none is
(60_exceptions.md R194). -/
theorem requireSchedule_eq {s : State} {run : Schedule → Host.Outcome State Fault Refusal}
    {result : Schedule → Except ErrorCode (List Byte)}
    (h : ∀ rk, run rk = .next (answeredWith (result rk) s)) :
    requireSchedule s run = .next (answeredWith (withHeld (persistent s) result) s) := by
  unfold withHeld
  obtain ⟨hks, hrun⟩ | ⟨hks, herr⟩ := requireSchedule_cases s run
  · rw [hrun, h, if_pos (show (persistent s).ksValid = true from hks)]
    rfl
  · rw [herr, if_neg (show ¬(persistent s).ksValid = true by simp [persistent, hks])]
    rfl

/-- What a run with an operand's block is answered with, is answered where the operand has sixteen bytes;
the error of its length where it has not (60_exceptions.md R192, R193). -/
theorem requireBlock_eq {s : State} {bytes : List Byte} {e : ErrorCode}
    {run : Block → Host.Outcome State Fault Refusal}
    {result : Block → Except ErrorCode (List Byte)}
    (h : ∀ b, run b = .next (answeredWith (result b) s)) :
    requireBlock bytes e s run = .next (answeredWith (withBlock bytes e result) s) := by
  unfold requireBlock withBlock
  cases blockOfBytes bytes with
  | some b => exact h b
  | none => rfl

variable (s : State)

/-- `DERIVE_SCHEDULE` answers as the dispatch function does and holds the schedule that it gives
(41_key_expansion.md R120, R121). -/
theorem execDeriveSchedule_eq (key : List Byte) :
    execDeriveSchedule key s =
      .next (answeredWith (commandOutcome s.cfg (persistent s) (.deriveSchedule key))
        (hold (commandPersistent (persistent s) (.deriveSchedule key)) s)) := by
  simp only [execDeriveSchedule, requireBlock, commandOutcome, withBlock, commandPersistent]
  cases blockOfBytes key <;> rfl

/-- `ENCRYPT_BLOCK` answers as the dispatch function does (42_block_cipher.md R130). -/
theorem execEncryptBlock_eq (block : Block) :
    execEncryptBlock block s =
      .next (answeredWith (commandOutcome s.cfg (persistent s) (.encryptBlock block)) s) := by
  simp only [execEncryptBlock, commandOutcome]
  exact requireSchedule_eq fun _ => rfl

/-- `DECRYPT_BLOCK` answers as the dispatch function does (42_block_cipher.md R134). -/
theorem execDecryptBlock_eq (block : Block) :
    execDecryptBlock block s =
      .next (answeredWith (commandOutcome s.cfg (persistent s) (.decryptBlock block)) s) := by
  simp only [execDecryptBlock, commandOutcome]
  exact requireSchedule_eq fun _ => rfl

/-- `UNPAD` answers as the dispatch function does (43_padding.md R154). -/
theorem execUnpad_eq (data : List Byte) :
    execUnpad data s =
      .next (answeredWith (commandOutcome s.cfg (persistent s) (.unpad data)) s) := by
  simp only [execUnpad, commandOutcome, loadBuffers_ibuf]
  cases unpad s.cfg.strictUnpad data <;> rfl

/-- `CBC_ENCRYPT` answers as the dispatch function does (44_cbc.md R168 to R170). -/
theorem execCbcEncrypt_eq (iv data : List Byte) :
    execCbcEncrypt iv data s =
      .next (answeredWith (commandOutcome s.cfg (persistent s) (.cbcEncrypt iv data)) s) := by
  simp only [execCbcEncrypt, commandOutcome]
  refine requireSchedule_eq fun rk => requireBlock_eq fun v => ?_
  rw [chainRun_pre_obuf, complete_eq, answeredWith]

/-- `CBC_DECRYPT` answers as the dispatch function does (44_cbc.md R173 to R177). -/
theorem execCbcDecrypt_eq (iv data : List Byte) :
    execCbcDecrypt iv data s =
      .next (answeredWith (commandOutcome s.cfg (persistent s) (.cbcDecrypt iv data)) s) := by
  simp only [execCbcDecrypt, commandOutcome, chainRun_post_obuf]
  refine requireSchedule_eq fun rk => requireBlock_eq fun v => ?_
  simp only [cbcDecrypt]
  split_ifs
  · cases unpad s.cfg.strictUnpad (joinBlocks (cbcPlainBlocks rk v (bufBlocks data))) <;> rfl
  · rfl

/-- Every command in every state: its response and its persistent state are those of the dispatch
function, and everything else is as after any command (30_encoding.md R76). -/
theorem exec_eq (i : Instr) :
    exec i s =
      .next (answeredWith (commandOutcome s.cfg (persistent s) i)
        (hold (commandPersistent (persistent s) i) s)) := by
  cases i with
  | deriveSchedule key => exact execDeriveSchedule_eq s key
  | encryptBlock block => exact execEncryptBlock_eq s block
  | decryptBlock block => exact execDecryptBlock_eq s block
  | pad data => rfl
  | unpad data => exact execUnpad_eq s data
  | cbcEncrypt iv data => exact execCbcEncrypt_eq s iv data
  | cbcDecrypt iv data => exact execCbcDecrypt_eq s iv data

/-- Every frame, well formed or not, in every state (30_encoding.md R76, 60_exceptions.md R195). -/
theorem runFrame_eq (f : List Byte) :
    runFrame f s =
      .next (answeredWith (frameOutcome s.cfg (persistent s) f)
        (hold (framePersistent s.cfg (persistent s) f) s)) := by
  unfold runFrame frameOutcome framePersistent
  cases decode s.cfg f with
  | ok i => exact exec_eq s i
  | error m => rfl

variable {s}

/-- With no response offered, the step that takes a frame the host sends answers it as the dispatch
function does (30_encoding.md R61, R62, R76). -/
theorem step_sendFrame {f : List Byte} {rest : List HostAction} (hrsp : s.rsp = []) (hf : f ≠ [])
    (hhost : s.host = sendFrame f ++ rest) :
    step s =
      .next (answeredWith (frameOutcome s.cfg (persistent s) f)
        (hold (framePersistent s.cfg (persistent s) f) { s with host := rest })) := by
  obtain ⟨b, g, rfl⟩ := List.exists_cons_of_ne_nil hf
  unfold step
  rw [nextArrival_sendFrame s b g rest hrsp hhost]
  exact runFrame_eq { s with host := rest } (b :: g)

end Sys2Proof.Machine
end

section
/-! PROOFS. A host's session: frame by frame, each response taken before the next frame (20_memory.md R50,
30_encoding.md R61). -/

namespace Sys2Proof.Machine

open Sys2Proof

/-! ### Runs of steps -/

section
variable {M : Host.Core} {s t : M.State}

/-- A run goes on from where its first step leads. -/
theorem run_succ (h : M.step s = .next t) (k : Nat) : M.run (k + 1) s = M.run k t := by
  rw [Host.Core.run, h]

/-- A run goes on from where its first part leads. -/
theorem run_add {j : Nat} (h : M.run j s = .next t) (k : Nat) : M.run (j + k) s = M.run k t := by
  induction j generalizing s with
  | zero =>
    cases h
    rw [Nat.zero_add]
  | succ j ih =>
    rw [Host.Core.run] at h
    split at h
    case h_1 u hstep => rw [Nat.succ_add, run_succ hstep, ih h]
    all_goals cases h

end

/-- A run of the core goes on from where its first step leads. -/
theorem core_run_succ {s t : State} (h : step s = .next t) (k : Nat) :
    core.run (k + 1) s = core.run k t :=
  run_succ (M := core) h k

/-- A run of the core goes on from where its first part leads. -/
theorem core_run_add {s t : State} {j : Nat} (h : core.run j s = .next t) (k : Nat) :
    core.run (j + k) s = core.run k t :=
  run_add (M := core) h k

variable {s : State}

/-! ### One response taken -/

/-- The bytes of a response leave with the last marked (30_encoding.md R60, R61). -/
theorem sentFrame_cons (b : Byte) (more : List Byte) :
    sentFrame (b :: more) = ⟨b, more.isEmpty⟩ :: sentFrame more := by
  cases more <;> rfl

/-- A host that takes gets the next byte of the response offered (30_encoding.md R61). -/
theorem step_take {b : Byte} {more : List Byte} {rest : List HostAction} (hrsp : s.rsp = b :: more)
    (hhost : s.host = .take :: rest) :
    step s = .next (transferByte b more { s with host := rest }) := by
  unfold step nextArrival
  rw [hrsp, hhost]
  rfl

/-- The state when the host has taken the whole response and has these actions left. -/
def responseTaken (rest : List HostAction) (s : State) : State :=
  { s with rsp := [], host := rest, sent := s.sent ++ sentFrame s.rsp }

/-- Nothing is left to take of an empty response. -/
theorem responseTaken_of_rsp_nil (hrsp : s.rsp = []) : responseTaken s.host s = s := by
  cases s
  cases hrsp
  simp [responseTaken, sentFrame]

/-- A byte of the response and then the others are the whole response. -/
theorem responseTaken_transferByte {b : Byte} {more : List Byte} (hrsp : s.rsp = b :: more)
    (now rest : List HostAction) :
    responseTaken rest (transferByte b more { s with host := now }) = responseTaken rest s := by
  simp [responseTaken, transferByte, hrsp, sentFrame_cons]

/-- A host that takes as many bytes as the response has gets all of it, byte by byte (30_encoding.md
R61). -/
theorem run_takes {r : List Byte} {rest : List HostAction} (hrsp : s.rsp = r)
    (hhost : s.host = List.replicate r.length .take ++ rest) :
    core.run r.length s = .next (responseTaken rest s) := by
  induction r generalizing s with
  | nil =>
    obtain rfl : s.host = rest := hhost
    exact congrArg Host.Outcome.next (responseTaken_of_rsp_nil hrsp).symm
  | cons b more ih =>
    calc core.run (b :: more).length s
        = core.run more.length (transferByte b more
            { s with host := List.replicate more.length .take ++ rest }) :=
          core_run_succ (step_take hrsp hhost) more.length
      _ = .next (responseTaken rest (transferByte b more
            { s with host := List.replicate more.length .take ++ rest })) := ih rfl rfl
      _ = .next (responseTaken rest s) :=
          congrArg Host.Outcome.next (responseTaken_transferByte hrsp _ rest)

/-! ### One frame and its response -/

/-- The state after a frame whose response the host has taken, with these actions left. -/
def exchanged (f : List Byte) (rest : List HostAction) (s : State) : State :=
  responseTaken rest (answeredWith (frameOutcome s.cfg (persistent s) f)
    (hold (framePersistent s.cfg (persistent s) f) { s with host := rest }))

section exchanged
variable (f : List Byte) (rest : List HostAction) (s : State)

@[simp] theorem exchanged_rsp : (exchanged f rest s).rsp = [] := rfl
@[simp] theorem exchanged_host : (exchanged f rest s).host = rest := rfl
@[simp] theorem exchanged_cfg : (exchanged f rest s).cfg = s.cfg :=
  (answeredWith_cfg _ _).trans (hold_cfg _ _)
@[simp] theorem exchanged_sent : (exchanged f rest s).sent =
    s.sent ++ sentFrame (outcomeFrame (frameOutcome s.cfg (persistent s) f)) := by
  simp [exchanged, responseTaken]
@[simp] theorem persistent_exchanged :
    persistent (exchanged f rest s) = framePersistent s.cfg (persistent s) f :=
  (persistent_answeredWith _ _).trans (persistent_hold _ _)

end exchanged

/-- A host that sends a frame and takes its response: one step for the frame, one for each byte of the
response that the dispatch function gives (30_encoding.md R61, R76). -/
theorem run_exchange {f : List Byte} {r : List Byte} {rest : List HostAction} (hrsp : s.rsp = [])
    (hf : f ≠ []) (hr : outcomeFrame (frameOutcome s.cfg (persistent s) f) = r)
    (hhost : s.host = sendFrame f ++ (List.replicate r.length .take ++ rest)) :
    core.run (1 + r.length) s = .next (exchanged f rest s) := by
  rw [Nat.add_comm]
  refine (core_run_succ (step_sendFrame hrsp hf hhost) r.length).trans
    ((run_takes (rest := rest) ?_ ?_).trans ?_)
  · rw [answeredWith_rsp, hr]
  · rw [answeredWith_host, hold_host]
  · unfold exchanged
    cases frameOutcome s.cfg (persistent s) f <;> rfl

/-! ### The session -/

/-- Settles O34, by induction on the frames: each is exchanged for its response, and the session goes on
from the persistent state that the dispatch function gives. -/
theorem sessionDeliversTheResponsesInOrder : Obligations.SessionDeliversTheResponsesInOrder := by
  intro s fs rest hrsp hne hhost
  induction fs generalizing s with
  | nil => exact ⟨s, rfl, (List.append_nil _).symm, rfl, hrsp, hhost⟩
  | cons f fs ih =>
    obtain ⟨hf, hfs⟩ := List.forall_mem_cons.mp hne
    have hround := run_exchange
      (rest := sessionActions s.cfg (framePersistent s.cfg (persistent s) f) fs ++ rest)
      hrsp hf rfl (by rw [hhost, sessionActions, List.append_assoc, List.append_assoc])
    obtain ⟨t, hrun, hsent, hheld, htrsp, hthost⟩ :=
      ih (exchanged f _ s) (exchanged_rsp ..) hfs (by rw [exchanged_cfg, persistent_exchanged, exchanged_host])
    rw [exchanged_cfg, persistent_exchanged] at hrun hsent hheld
    refine ⟨t, (core_run_add hround _).trans hrun, ?_, hheld, htrsp, hthost⟩
    rw [hsent, exchanged_sent, sessionSent, List.append_assoc]

end Sys2Proof.Machine
end

section
/-! PROOFS. The decoder reads exactly the frames that the encoder writes, and names the opcodes that are
none (30_encoding.md R63 to R71, R74). -/

namespace Sys2Proof

/-! ### From operands to their bytes and back -/

/-- A counted string at the front of the bytes is read back, with the bytes after it (30_encoding.md
R64). -/
theorem takeCounted_countedBytes {v : List Byte} (hv : fitsLengthField v = true) (rest : List Byte) :
    takeCounted (countedBytes v ++ rest) = .ok (v, rest) := by
  obtain ⟨a, b, c, d, hbytes, hlen, -⟩ := be32_digits (of_decide_eq_true hv)
  simp [countedBytes, hbytes, takeCounted, hlen]

/-- A counted string that is the whole of the bytes is read back (30_encoding.md R63). -/
theorem takeLast_countedBytes {v : List Byte} (hv : fitsLengthField v = true) :
    takeLast (countedBytes v) = .ok v := by
  have htake := takeCounted_countedBytes hv []
  rw [List.append_nil] at htake
  rw [takeLast, htake]

/-- A data operand within its limit is read back (30_encoding.md R67, R69). -/
theorem takeData_countedBytes {c : Config} {v : List Byte} (hv : fitsDataLimit c v = true) :
    takeData c (countedBytes v) = .ok v := by
  obtain ⟨hlimit, hfits⟩ : v.length ≤ c.maxDataLen ∧ fitsLengthField v = true := by
    simpa [fitsDataLimit] using hv
  rw [takeData, takeLast_countedBytes hfits]
  exact if_pos hlimit

/-- The two operands of format C are read back (30_encoding.md R68). -/
theorem takeIvData_countedBytes {c : Config} {iv data : List Byte} (hiv : fitsLengthField iv = true)
    (hdata : fitsDataLimit c data = true) :
    takeIvData c (countedBytes iv ++ countedBytes data) = .ok (iv, data) := by
  rw [takeIvData, takeCounted_countedBytes hiv]
  simp only [takeData_countedBytes hdata]

/-- A block is read from its sixteen bytes and from no others (30_encoding.md R66). -/
theorem takeBlock_eq_ok {body : List Byte} {b : Block} :
    takeBlock body = .ok b ↔ body = blockBytes b := by
  rw [takeBlock, ← Machine.blockOfBytes_eq_some]
  cases blockOfBytes body <;> simp

/-! ### From commands to their frames and back -/

/-- The frame of a command within the limits is decoded to that command (30_encoding.md R71). -/
theorem decode_encode {c : Config} {i : Instr} (h : i.wellFormed c = true) :
    decode c (encode i) = .ok i := by
  cases i with
  | deriveSchedule key => exact exceptMap_eq_ok.mpr ⟨key, takeLast_countedBytes h, rfl⟩
  | encryptBlock block => exact exceptMap_eq_ok.mpr ⟨block, takeBlock_eq_ok.mpr rfl, rfl⟩
  | decryptBlock block => exact exceptMap_eq_ok.mpr ⟨block, takeBlock_eq_ok.mpr rfl, rfl⟩
  | pad data => exact exceptMap_eq_ok.mpr ⟨data, takeData_countedBytes h, rfl⟩
  | unpad data => exact exceptMap_eq_ok.mpr ⟨data, takeData_countedBytes h, rfl⟩
  | cbcEncrypt iv data =>
    obtain ⟨hiv, hdata⟩ := Bool.and_eq_true_iff.mp h
    exact exceptMap_eq_ok.mpr ⟨(iv, data), takeIvData_countedBytes hiv hdata, rfl⟩
  | cbcDecrypt iv data =>
    obtain ⟨hiv, hdata⟩ := Bool.and_eq_true_iff.mp h
    exact exceptMap_eq_ok.mpr ⟨(iv, data), takeIvData_countedBytes hiv hdata, rfl⟩

/-- A frame that is decoded is the frame of the command read from it (30_encoding.md R71). -/
theorem encode_of_decode {c : Config} {f : List Byte} {i : Instr} (h : decode c f = .ok i) :
    encode i = f := by
  cases f with
  | nil => cases h
  | cons opc body =>
    simp only [decode] at h
    split_ifs at h with hopc hopc hopc hopc hopc hopc hopc <;> subst hopc
    · obtain ⟨key, hkey, rfl⟩ := exceptMap_eq_ok.mp h
      rw [(takeLast_ok hkey).1, encode]
    · obtain ⟨block, hblock, rfl⟩ := exceptMap_eq_ok.mp h
      rw [takeBlock_eq_ok.mp hblock, encode]
    · obtain ⟨block, hblock, rfl⟩ := exceptMap_eq_ok.mp h
      rw [takeBlock_eq_ok.mp hblock, encode]
    · obtain ⟨data, hdata, rfl⟩ := exceptMap_eq_ok.mp h
      rw [(takeData_ok hdata).1, encode]
    · obtain ⟨data, hdata, rfl⟩ := exceptMap_eq_ok.mp h
      rw [(takeData_ok hdata).1, encode]
    · obtain ⟨p, hp, rfl⟩ := exceptMap_eq_ok.mp h
      rw [(takeIvData_ok hp).1, encode]
    · obtain ⟨p, hp, rfl⟩ := exceptMap_eq_ok.mp h
      rw [(takeIvData_ok hp).1, encode]

/-- A command is decoded from its frame and from no other, if it is within the limits, and from none if it
is not (30_encoding.md R71). -/
theorem decode_eq_ok_iff {c : Config} {f : List Byte} {i : Instr} :
    decode c f = .ok i ↔ encode i = f ∧ i.wellFormed c = true := by
  constructor
  · intro h
    exact ⟨encode_of_decode h, decode_ok_wellFormed h⟩
  · rintro ⟨rfl, hi⟩
    exact decode_encode hi

/-! ### The statements -/

/-- Settles O1: by the command, each of its operands being read back from its bytes. -/
theorem decodeOfEncodeIsTheCommand : Obligations.DecodeOfEncodeIsTheCommand :=
  fun _ _ => decode_encode

/-- Settles O2: by the opcode, the operands read being the whole of the frame after it. -/
theorem decodedFrameIsItsEncoding : Obligations.DecodedFrameIsItsEncoding :=
  fun _ _ _ => decode_eq_ok_iff.mp

/-- Settles O3: such an opcode is none of the seven that the decoder compares it with. -/
theorem illegalOpcodesAreRejected : Obligations.IllegalOpcodesAreRejected := by
  intro c opc body hopc
  have hne : ∀ k : Byte, 1 ≤ k.toNat → k.toNat ≤ 7 → opc ≠ k := by
    rintro k hk1 hk7 rfl
    omega
  simp [decode, hne]

/-- Settles O4: each frame is the encoding of its command, and each command is within the limits. -/
theorem framesFromTheFormatTablesDecode : Obligations.FramesFromTheFormatTablesDecode := by
  refine ⟨?_, ?_, ?_, ?_, ?_, ?_, ?_⟩ <;> exact decode_eq_ok_iff.mpr ⟨rfl, rfl⟩

end Sys2Proof
end

section
/-! PROOFS. What a step makes of a frame: whole, malformed, unfinished, or held back while a response is
offered (30_encoding.md R61, R62, R69, R74, R76; 60_exceptions.md R195). -/

namespace Sys2Proof.Machine

open Sys2Proof

variable {s : State}

/-! ### A whole frame -/

/-- With no response offered, the step takes the frame the host sends and runs it (30_encoding.md R61,
R62). -/
theorem step_eq_runFrame {f : List Byte} {rest : List HostAction} (hrsp : s.rsp = []) (hf : f ≠ [])
    (hhost : s.host = sendFrame f ++ rest) : step s = runFrame f { s with host := rest } := by
  obtain ⟨b, g, rfl⟩ := List.exists_cons_of_ne_nil hf
  rw [step, nextArrival_sendFrame s b g rest hrsp hhost, runArrival]

/-- A frame that decodes runs its command (30_encoding.md R76). -/
theorem runFrame_of_decode_ok {f : List Byte} {i : Instr} (h : decode s.cfg f = .ok i) :
    runFrame f s = exec i s := by
  rw [runFrame, h]

/-- A malformed frame is answered IllegalCommand (60_exceptions.md R195). -/
theorem runFrame_of_decode_error {f : List Byte} {m : Malformed} (h : decode s.cfg f = .error m) :
    runFrame f s = .next (answered s 0x06#8 []) := by
  rw [runFrame, h]
  exact raise_eq .illegalCommand s

/-- Settles O6: the frame arrives whole and is decoded. -/
theorem stepRunsTheDecodedCommand : Obligations.StepRunsTheDecodedCommand := by
  intro s f rest i hrsp hf hhost hdec
  exact (step_eq_runFrame hrsp hf hhost).trans (runFrame_of_decode_ok hdec)

/-- Settles O7: the frame arrives whole and is answered IllegalCommand. -/
theorem malformedFrameIsAnsweredIllegalCommand :
    Obligations.MalformedFrameIsAnsweredIllegalCommand := by
  intro s f rest m hrsp hf hhost hdec
  have hstep : step s = .next (answered { s with host := rest } 0x06#8 []) :=
    (step_eq_runFrame hrsp hf hhost).trans (runFrame_of_decode_error hdec)
  exact ⟨_, hstep, rfl, rfl, rfl, rfl⟩

/-- Settles O33: the next state is the one `step_sendFrame` gives, and its fields are those of the
dispatch function. -/
theorem stepRefinesTheDispatchFunction : Obligations.StepRefinesTheDispatchFunction := by
  intro s f rest hrsp hf hhost
  exact ⟨_, step_sendFrame hrsp hf hhost, by simp, by simp, by simp, by simp, by simp⟩

/-- Settles O30: a result is at most sixteen bytes longer than the data, which is within MAX_DATA_LEN; a
loaded schedule and an error have none. -/
theorem resultsFitTheResponseLengthField : Obligations.ResultsFitTheResponseLengthField := by
  intro i s t hcfg hi h
  obtain ⟨hmax, -⟩ := hcfg
  cases answers_of_exec s h with
  | schedule k => exact ⟨_, [], rfl, by simp, by simp⟩
  | result data fits =>
    have hlimit := dataLength_le_of_wellFormed hi
    exact ⟨_, data, rfl, by omega, by omega⟩
  | error e => exact ⟨_, [], rfl, by simp, by simp⟩

/-! ### No whole frame -/

/-- The receiver collects bytes that do not end the frame and goes on with what the host does then
(30_encoding.md R61). -/
theorem receiveFrame_unfinished (acc bs : List Byte) (more : List HostAction) :
    receiveFrame acc (bs.map (fun b => .send b false) ++ more) = receiveFrame (acc ++ bs) more := by
  induction bs generalizing acc with
  | nil => simp
  | cons b bs ih => simpa [receiveFrame] using ih (acc ++ [b])

/-- Inside an unfinished frame, what arrives next is what the host does then. -/
theorem nextArrival_unfinished {bs : List Byte} {more : List HostAction} (hrsp : s.rsp = [])
    (hhost : s.host = bs.map (fun b => .send b false) ++ more) :
    nextArrival s = receiveFrame bs more := by
  rw [nextArrival, hrsp, hhost]
  exact receiveFrame_unfinished [] bs more

/-- Where the core waits for the host it makes no step (log 8). -/
theorem step_of_nextArrival_waiting {why : Fault} (h : nextArrival s = .waiting why) :
    step s = .fault why := by
  rw [step, h, runArrival]

/-- Settles O9: the receiver has collected the bytes sent, and then the host does nothing, or takes. -/
theorem unfinishedFrameMakesNoStep : Obligations.UnfinishedFrameMakesNoStep := by
  intro s bs rest hrsp
  constructor
  · intro hhost
    rw [← List.append_nil (bs.map _)] at hhost
    exact step_of_nextArrival_waiting (nextArrival_unfinished hrsp hhost)
  · intro hhost
    exact step_of_nextArrival_waiting (nextArrival_unfinished hrsp hhost)

/-- Settles O8: the ports are views of the response offered; a host that sends or does nothing is waited
for, and one that takes gets the next byte. -/
theorem responseIsTakenBeforeTheNextCommand : Obligations.ResponseIsTakenBeforeTheNextCommand := by
  intro s b more hrsp
  refine ⟨by simp [cmdReady, hrsp], by simp [rspValid, hrsp], by simp [rspData, hrsp],
    by simp [rspLast, hrsp], fun d l rest hhost => ?_, fun hhost => ?_, fun rest hhost => ?_⟩
  · exact step_of_nextArrival_waiting (by rw [nextArrival, hrsp, hhost])
  · exact step_of_nextArrival_waiting (by rw [nextArrival, hrsp, hhost])
  · exact step_take hrsp hhost

end Sys2Proof.Machine
end

section
/-! PROOFS. Multiplication in GF(2^8) (40_field_and_tables.md R91, R92). A map of bytes that respects `xor`
and `xtime` can be taken out of a product; that a product is itself such a map in its first factor gives
the laws. -/

namespace Sys2Proof.Machine

open Sys2Proof

/-! ### Maps that respect addition and multiplication by `x` -/

/-- A map of the field that respects addition and multiplication by `x`. -/
structure FieldLinear (f : Byte → Byte) : Prop where
  map_xor : ∀ a b, f (a ^^^ b) = f a ^^^ f b
  map_xtime : ∀ a, f (xtime a) = xtime (f a)

theorem FieldLinear.map_zero {f : Byte → Byte} (hf : FieldLinear f) : f 0 = 0 := by
  simpa using hf.map_xor 0 0

theorem xor_xor_xor_comm (a b c d : Byte) : a ^^^ b ^^^ (c ^^^ d) = a ^^^ c ^^^ (b ^^^ d) := by ac_rfl

/-- What bit 7 of `a` adds to the shifted byte (R91). -/
def reduction (a : Byte) : Byte := if a.getLsbD 7 then 0x1B#8 else 0x00#8

theorem xtime_eq (a : Byte) : xtime a = a <<< 1 ^^^ reduction a := by
  unfold xtime reduction
  split <;> simp

/-- Bits 7 of two summands that are both set cancel, and so do their reductions. -/
theorem reduction_xor (a b : Byte) : reduction (a ^^^ b) = reduction a ^^^ reduction b := by
  unfold reduction
  rw [BitVec.getLsbD_xor]
  cases a.getLsbD 7 <;> cases b.getLsbD 7 <;> rfl

theorem xtime_xor (a b : Byte) : xtime (a ^^^ b) = xtime a ^^^ xtime b := by
  rw [xtime_eq, xtime_eq, xtime_eq, BitVec.shiftLeft_xor_distrib, reduction_xor, xor_xor_xor_comm]

theorem fieldLinear_xtime : FieldLinear xtime := ⟨xtime_xor, fun _ => rfl⟩

/-! ### The loop of R92 -/

/-- The loop is additive in the pair of `r` and `t`. -/
theorem foldl_gmulStep_xor (b : Byte) (is : List Nat) (r t r' t' : Byte) :
    is.foldl (gmulStep b) (r ^^^ r', t ^^^ t') =
      ((is.foldl (gmulStep b) (r, t)).1 ^^^ (is.foldl (gmulStep b) (r', t')).1,
        (is.foldl (gmulStep b) (r, t)).2 ^^^ (is.foldl (gmulStep b) (r', t')).2) := by
  induction is generalizing r t r' t' with
  | nil => rfl
  | cons i is ih =>
    simp only [List.foldl_cons, gmulStep, xtime_xor]
    split
    · rw [← ih, xor_xor_xor_comm]
    · exact ih ..

/-- A linear map commutes with the loop. -/
theorem foldl_gmulStep_map {f : Byte → Byte} (hf : FieldLinear f) (b : Byte) (is : List Nat) (r t : Byte) :
    is.foldl (gmulStep b) (f r, f t) = Prod.map f f (is.foldl (gmulStep b) (r, t)) := by
  induction is generalizing r t with
  | nil => rfl
  | cons i is ih =>
    simp only [List.foldl_cons, gmulStep, ← hf.map_xor, ← hf.map_xtime, ← apply_ite f, ih]

/-! ### The laws of the product -/

theorem xor_gmul (a b c : Byte) : gmul (a ^^^ b) c = gmul a c ^^^ gmul b c :=
  congrArg Prod.fst (foldl_gmulStep_xor c _ 0 a 0 b)

/-- A linear map can be taken out of the first factor. -/
theorem gmul_map {f : Byte → Byte} (hf : FieldLinear f) (a b : Byte) : gmul (f a) b = f (gmul a b) := by
  have h := congrArg Prod.fst (foldl_gmulStep_map hf b [0, 1, 2, 3, 4, 5, 6, 7] 0 a)
  rwa [hf.map_zero] at h

theorem fieldLinear_gmul (c : Byte) : FieldLinear fun a => gmul a c :=
  ⟨fun a b => xor_gmul a b c, fun a => gmul_map fieldLinear_xtime a c⟩

theorem gmul_right_comm (a b c : Byte) : gmul (gmul a b) c = gmul (gmul a c) b :=
  (gmul_map (fieldLinear_gmul c) a b).symm

/-- The loop on 0x01 puts together the bits of `b`. -/
@[simp] theorem one_gmul : ∀ b : Byte, gmul 0x01#8 b = b := by decide +kernel

theorem gmul_comm (a b : Byte) : gmul a b = gmul b a := by
  simpa using gmul_right_comm 0x01#8 a b

theorem gmul_assoc (a b c : Byte) : gmul (gmul a b) c = gmul a (gmul b c) := by
  rw [gmul_comm a b, gmul_right_comm, gmul_comm]

theorem gmul_xor (a b c : Byte) : gmul a (b ^^^ c) = gmul a b ^^^ gmul a c := by
  rw [gmul_comm, xor_gmul, gmul_comm b, gmul_comm c]

theorem gmul_gmul_gmul_comm (a b c d : Byte) : gmul (gmul a b) (gmul c d) = gmul (gmul a c) (gmul b d) := by
  rw [gmul_assoc, gmul_assoc, ← gmul_assoc b, gmul_comm b, gmul_assoc c]

@[simp] theorem gmul_one (a : Byte) : gmul a 0x01#8 = a := by rw [gmul_comm, one_gmul]

@[simp] theorem zero_gmul (a : Byte) : gmul 0x00#8 a = 0x00#8 := (fieldLinear_gmul a).map_zero

@[simp] theorem gmul_zero (a : Byte) : gmul a 0x00#8 = 0x00#8 := by rw [gmul_comm, zero_gmul]

/-! ### The constant multiples -/

/-- The product with a constant on the left is the loop over the bits of that constant. -/
theorem const_gmul (k a : Byte) : gmul k a = ([0, 1, 2, 3, 4, 5, 6, 7].foldl (gmulStep k) (0, a)).1 :=
  gmul_comm k a

theorem gmul_02 (a : Byte) : gmul 0x02#8 a = xtime a := by
  simp [const_gmul, gmulStep]

theorem gmul_03 (a : Byte) : gmul 0x03#8 a = xtime a ^^^ a := by
  simp [const_gmul, gmulStep, BitVec.xor_comm]

theorem gmul_09 (a : Byte) : gmul 0x09#8 a = xtime (xtime (xtime a)) ^^^ a := by
  simp [const_gmul, gmulStep, BitVec.xor_comm]

theorem gmul_0b (a : Byte) : gmul 0x0b#8 a = xtime (xtime (xtime a)) ^^^ xtime a ^^^ a := by
  simp [const_gmul, gmulStep]
  ac_rfl

theorem gmul_0d (a : Byte) :
    gmul 0x0d#8 a = xtime (xtime (xtime a)) ^^^ xtime (xtime a) ^^^ a := by
  simp [const_gmul, gmulStep]
  ac_rfl

theorem gmul_0e (a : Byte) :
    gmul 0x0e#8 a = xtime (xtime (xtime a)) ^^^ xtime (xtime a) ^^^ xtime a := by
  simp [const_gmul, gmulStep]
  ac_rfl

/-! ### Powers -/

/-- `a^n`, the product of `n` factors `a`. -/
def gpow (a : Byte) (n : Nat) : Byte := (List.replicate n a).foldl gmul 0x01#8

@[simp] theorem gpow_zero (a : Byte) : gpow a 0 = 0x01#8 := rfl

theorem gpow_succ (a : Byte) (n : Nat) : gpow a (n + 1) = gmul (gpow a n) a := by
  simp [gpow, List.replicate_succ']

@[simp] theorem gpow_one (a : Byte) : gpow a 1 = a := by simp [gpow_succ]

theorem gpow_add (a : Byte) (m n : Nat) : gpow a (m + n) = gmul (gpow a m) (gpow a n) := by
  induction n with
  | zero => simp
  | succ n ih => rw [← Nat.add_assoc, gpow_succ, gpow_succ, ih, gmul_assoc]

theorem gpow_gmul (a b : Byte) (n : Nat) : gpow (gmul a b) n = gmul (gpow a n) (gpow b n) := by
  induction n with
  | zero => simp
  | succ n ih => rw [gpow_succ, gpow_succ, gpow_succ, ih, gmul_gmul_gmul_comm]

theorem gmul_self_xor (a b : Byte) : gmul (a ^^^ b) (a ^^^ b) = gmul a a ^^^ gmul b b := by
  rw [gmul_xor, xor_gmul, xor_gmul, gmul_comm b a, BitVec.xor_comm (gmul a b) (gmul b b),
    xor_xor_xor_comm, BitVec.xor_self, BitVec.xor_zero]

theorem gpow_two_pow_succ (a : Byte) (k : Nat) :
    gpow a (2 ^ (k + 1)) = gmul (gpow a (2 ^ k)) (gpow a (2 ^ k)) := by
  rw [Nat.pow_succ, Nat.mul_two, gpow_add]

/-- Every byte is its own negative, so squaring is additive, and so is squaring again. -/
theorem gpow_two_pow_xor (a b : Byte) (k : Nat) :
    gpow (a ^^^ b) (2 ^ k) = gpow a (2 ^ k) ^^^ gpow b (2 ^ k) := by
  induction k with
  | zero => simp
  | succ k ih => rw [gpow_two_pow_succ, gpow_two_pow_succ, gpow_two_pow_succ, ih, gmul_self_xor]

/-- Each pass of the loop of `ginv` squares `p.2` and multiplies the square to `p.1`. -/
theorem foldl_squares (a : Byte) (is : List Nat) :
    is.foldl (fun (p : Byte × Byte) _ => (gmul p.1 (gmul p.2 p.2), gmul p.2 p.2)) (1, a) =
      (gpow a (2 ^ (is.length + 1) - 2), gpow a (2 ^ is.length)) := by
  induction is using List.reverseRecOn with
  | nil => simp
  | append_singleton is i ih =>
    have hexp : 2 ^ (is.length + 1 + 1) - 2 = 2 ^ (is.length + 1) - 2 + 2 ^ (is.length + 1) := by
      have hpos : 0 < 2 ^ is.length := Nat.two_pow_pos _
      rw [Nat.pow_succ _ (is.length + 1)]
      omega
    rw [List.foldl_concat, ih, List.length_append, List.length_singleton, hexp, gpow_add,
      gpow_two_pow_succ]

theorem ginv_eq_gpow (a : Byte) : ginv a = gpow a 254 := by
  rw [ginv, foldl_squares]
  simp

theorem gpow_256_eq (a : Byte) : gpow a 256 = gmul (gmul (ginv a) a) a := by
  rw [gpow_succ, gpow_succ, ginv_eq_gpow]

/-- `a ↦ a^256` is linear, because it is additive and `x^256 = x`. -/
theorem fieldLinear_gpow_256 : FieldLinear fun a => gpow a 256 where
  map_xor a b := gpow_two_pow_xor a b 8
  map_xtime a := by
    have hx : gpow 0x02#8 256 = 0x02#8 := (gpow_256_eq _).trans (by decide +kernel)
    rw [← gmul_02, gpow_gmul, hx, gmul_02]

/-- A linear map is the multiplication by its value at one. -/
theorem gpow_256 (a : Byte) : gpow a 256 = a := by
  have hone : gpow 0x01#8 256 = 0x01#8 := (gpow_256_eq _).trans (by decide)
  have hmul := gmul_map fieldLinear_gpow_256 0x01#8 a
  rw [hone, one_gmul] at hmul
  exact hmul.symm

end Sys2Proof.Machine
end

section
/-! PROOFS. The inverse in the field, the S-box and its inverse, and the round constants
(40_field_and_tables.md R93 to R98). The S-box holds every byte's inverse, which gives cancellation; with
`a^256 = a` the inverse is `a^254`. -/

namespace Sys2Proof.Machine

open Sys2Proof

/-! ### The affine steps -/

/-- The step of R94 after the inverse. -/
def sboxAffine (b : Byte) : Byte :=
  b ^^^ rotl8 b 1 ^^^ rotl8 b 2 ^^^ rotl8 b 3 ^^^ rotl8 b 4 ^^^ 0x63#8

/-- The step of R96 before the inverse. -/
def invSboxAffine (y : Byte) : Byte := rotl8 y 1 ^^^ rotl8 y 3 ^^^ rotl8 y 6 ^^^ 0x05#8

theorem sboxFormula_eq (x : Byte) : sboxFormula x = sboxAffine (ginv x) := rfl

theorem invSboxFormula_eq (y : Byte) : invSboxFormula y = ginv (invSboxAffine y) := rfl

theorem invSboxAffine_sboxAffine : ∀ b : Byte, invSboxAffine (sboxAffine b) = b := by decide +kernel

theorem sboxAffine_invSboxAffine : ∀ y : Byte, sboxAffine (invSboxAffine y) = y := by decide +kernel

/-! ### The inverse -/

/-- Every byte but zero has an inverse: the affine step taken back from its entry in the S-box. -/
theorem gmul_invSboxAffine_sbox : ∀ a : Byte, a ≠ 0x00#8 → gmul a (invSboxAffine (sbox a)) = 0x01#8 := by
  decide +kernel

theorem gmul_left_cancel {a b c : Byte} (ha : a ≠ 0x00#8) (h : gmul a b = gmul a c) : b = c := by
  have hinv (d : Byte) : gmul (gmul a d) (invSboxAffine (sbox a)) = d := by
    rw [gmul_right_comm, gmul_invSboxAffine_sbox a ha, one_gmul]
  rw [← hinv b, h, hinv]

theorem eq_zero_or_eq_zero_of_gmul_eq_zero {a b : Byte} (h : gmul a b = 0x00#8) :
    a = 0x00#8 ∨ b = 0x00#8 :=
  or_iff_not_imp_left.2 fun ha => gmul_left_cancel ha (h.trans (gmul_zero a).symm)

@[simp] theorem ginv_zero : ginv 0x00#8 = 0x00#8 := by rw [ginv_eq_gpow, gpow_succ, gmul_zero]

theorem gmul_ginv {a : Byte} (ha : a ≠ 0x00#8) : gmul a (ginv a) = 0x01#8 :=
  gmul_left_cancel ha <|
    calc gmul a (gmul a (ginv a)) = gmul (gmul (ginv a) a) a := by
          rw [gmul_comm a (gmul a _), gmul_comm a (ginv a)]
      _ = a := by rw [← gpow_256_eq, gpow_256]
      _ = gmul a 0x01#8 := (gmul_one a).symm

theorem eq_ginv_of_gmul_eq_one {a b : Byte} (ha : a ≠ 0x00#8) (h : gmul a b = 0x01#8) : b = ginv a :=
  gmul_left_cancel ha (h.trans (gmul_ginv ha).symm)

theorem ginv_ginv (a : Byte) : ginv (ginv a) = a := by
  by_cases ha : a = 0x00#8
  · simp [ha]
  · have hmul := gmul_ginv ha
    have hinv : ginv a ≠ 0x00#8 := fun h0 => by simp [h0] at hmul
    exact (eq_ginv_of_gmul_eq_one hinv (by rwa [gmul_comm])).symm

/-! ### The tables -/

theorem sbox_eq_sboxFormula (x : Byte) : sbox x = sboxFormula x := by
  by_cases hx : x = 0x00#8
  · subst hx
    decide +kernel
  · rw [sboxFormula_eq, ← eq_ginv_of_gmul_eq_one hx (gmul_invSboxAffine_sbox x hx),
      sboxAffine_invSboxAffine]

@[simp] theorem invSbox_sbox : ∀ x : Byte, invSbox (sbox x) = x := by decide +kernel

/-- An injective map of the 256 bytes reaches every byte, so the left inverse is a right inverse. -/
@[simp] theorem sbox_invSbox (y : Byte) : sbox (invSbox y) = y := by
  have hinj : Function.Injective sbox := Function.LeftInverse.injective invSbox_sbox
  obtain ⟨x, rfl⟩ := Finite.injective_iff_surjective.1 hinj y
  rw [invSbox_sbox]

theorem invSbox_eq_invSboxFormula (y : Byte) : invSbox y = invSboxFormula y := by
  obtain ⟨x, rfl⟩ : ∃ x, sbox x = y := ⟨invSbox y, sbox_invSbox y⟩
  rw [invSbox_sbox, sbox_eq_sboxFormula, sboxFormula_eq, invSboxFormula_eq, invSboxAffine_sboxAffine,
    ginv_ginv]

theorem sbox_ne_self : ∀ x : Byte, sbox x ≠ x := by decide +kernel

theorem sbox_ne_complement : ∀ x : Byte, sbox x ≠ x ^^^ 0xff#8 := by decide +kernel

/-! ### The statements -/

/-- Settles O36: the laws of the product, with cancellation for the zero divisors, and the four examples by
evaluation. -/
theorem fieldMultiplicationLaws : Obligations.FieldMultiplicationLaws :=
  ⟨gmul_comm, gmul_assoc, gmul_xor, fun a => ⟨gmul_one a, gmul_zero a⟩,
    fun _ _ => eq_zero_or_eq_zero_of_gmul_eq_zero,
    fun a => ⟨gmul_02 a, gmul_03 a, gmul_09 a, gmul_0b a, gmul_0d a, gmul_0e a⟩, by decide⟩

/-- Settles O37: an inverse exists, it is unique by cancellation, and `ginv` computes `a^254`. -/
theorem fieldInverseIsTheInverse : Obligations.FieldInverseIsTheInverse :=
  ⟨fun a ha => ⟨gmul_ginv ha, fun _ => eq_ginv_of_gmul_eq_one ha⟩, ginv_zero, ginv_eq_gpow, by decide⟩

/-- Settles O38: the affine step taken back from an entry of the table is the inverse, which is unique. -/
theorem sboxTableIsItsDefinition : Obligations.SboxTableIsItsDefinition := fun x =>
  ⟨sbox_eq_sboxFormula x, sbox_ne_self x, sbox_ne_complement x⟩

/-- Settles O39: the two tables undo each other, and the arithmetic forms do. -/
theorem inverseSboxUndoesSbox : Obligations.InverseSboxUndoesSbox :=
  ⟨invSbox_sbox, sbox_invSbox, fun x _ h => h ▸ (invSbox_sbox x).symm, invSbox_eq_invSboxFormula⟩

/-- Settles O40: the recurrence is the definition of `rcon` from the second constant on. -/
theorem roundConstantsArePowersOfX : Obligations.RoundConstantsArePowersOfX := by
  refine ⟨by decide, rfl, fun j hj => ?_, fun j _ => rfl⟩
  obtain ⟨k, rfl⟩ := Nat.exists_eq_add_of_le' hj
  rfl

end Sys2Proof.Machine
end

section
/-! PROOFS. The cipher state by rows and columns, and the round primitives (40_field_and_tables.md R99 to
R107). -/

namespace Sys2Proof.Machine

open Sys2Proof

/-! ### Reading a state and building one -/

@[simp] theorem blockByte_blockOfFn (f : Nat → Byte) {i : Nat} (hi : i < 16) :
    blockByte (blockOfFn f) i = f i := by
  interval_cases i <;> rfl

@[simp] theorem stateAt_stateOfFn (f : Nat → Nat → Byte) {r c : Nat} (hr : r < 4) (hc : c < 4) :
    stateAt (stateOfFn f) r c = f r c := by
  rw [stateAt, stateOfFn, blockByte_blockOfFn _ (by omega)]
  congr 1 <;> omega

theorem blockByte_eq_stateAt (b : Block) (i : Nat) : blockByte b i = stateAt b (i % 4) (i / 4) := by
  rw [stateAt, Nat.mod_add_div]

/-- A state is given by its entries. -/
theorem block_ext {a b : Block} (h : ∀ r c, r < 4 → c < 4 → stateAt a r c = stateAt b r c) : a = b := by
  have hbyte (i : Nat) (hi : i < 16) : blockByte a i = blockByte b i := by
    rw [blockByte_eq_stateAt, blockByte_eq_stateAt, h _ _ (by omega) (by omega)]
  calc a = blockOfFn (blockByte a) := rfl
    _ = blockOfFn (blockByte b) := by simp [blockOfFn, hbyte]
    _ = b := rfl

/-! ### The bytes of a state -/

@[simp] theorem stateAt_mapBytes (f : Byte → Byte) (st : Block) {r c : Nat} (hr : r < 4) (hc : c < 4) :
    stateAt (mapBytes f st) r c = f (stateAt st r c) := by
  rw [stateAt, mapBytes, blockByte_blockOfFn _ (by omega), stateAt]

theorem mapBytes_mapBytes_cancel {f g : Byte → Byte} (h : ∀ x, f (g x) = x) (st : Block) :
    mapBytes f (mapBytes g st) = st :=
  block_ext fun r c hr hc => by rw [stateAt_mapBytes f _ hr hc, stateAt_mapBytes g _ hr hc, h]

theorem invSubBytes_subBytes (st : Block) : invSubBytes (subBytes st) = st :=
  mapBytes_mapBytes_cancel invSbox_sbox st

theorem subBytes_invSubBytes (st : Block) : subBytes (invSubBytes st) = st :=
  mapBytes_mapBytes_cancel sbox_invSbox st

theorem addRoundKey_addRoundKey (st k : Block) : addRoundKey (addRoundKey st k) k = st := by
  simp [addRoundKey, Block.xor, Word.xor]

/-! ### The rows of a state -/

/-- The state whose row `r` at column `c` is row `r` of `st` at column `col r c`. -/
def permuteRows (col : Nat → Nat → Nat) (st : Block) : Block := stateOfFn fun r c => stateAt st r (col r c)

theorem shiftRows_eq (st : Block) : shiftRows st = permuteRows (fun r c => (c + r) % 4) st := rfl

theorem invShiftRows_eq (st : Block) : invShiftRows st = permuteRows (fun r c => (c + 4 - r) % 4) st := rfl

theorem stateAt_shiftRows (st : Block) {r c : Nat} (hr : r < 4) (hc : c < 4) :
    stateAt (shiftRows st) r c = stateAt st r ((c + r) % 4) :=
  stateAt_stateOfFn _ hr hc

theorem stateAt_invShiftRows (st : Block) {r c : Nat} (hr : r < 4) (hc : c < 4) :
    stateAt (invShiftRows st) r c = stateAt st r ((c + 4 - r) % 4) :=
  stateAt_stateOfFn _ hr hc

theorem invShiftRows_shiftRows (st : Block) : invShiftRows (shiftRows st) = st :=
  block_ext fun r c hr hc => by
    rw [stateAt_invShiftRows _ hr hc, stateAt_shiftRows st hr (by omega)]
    congr 1
    omega

theorem shiftRows_invShiftRows (st : Block) : shiftRows (invShiftRows st) = st :=
  block_ext fun r c hr hc => by
    rw [stateAt_shiftRows _ hr hc, stateAt_invShiftRows st hr (by omega)]
    congr 1
    omega

theorem permuteRows_mapBytes {col : Nat → Nat → Nat} (hcol : ∀ r c, col r c < 4) (f : Byte → Byte)
    (st : Block) : permuteRows col (mapBytes f st) = mapBytes f (permuteRows col st) :=
  block_ext fun r c hr hc => by
    rw [stateAt_mapBytes f _ hr hc, permuteRows, permuteRows, stateAt_stateOfFn _ hr hc,
      stateAt_stateOfFn _ hr hc, stateAt_mapBytes f _ hr (hcol r c)]

theorem subBytes_shiftRows (st : Block) : subBytes (shiftRows st) = shiftRows (subBytes st) :=
  (permuteRows_mapBytes (fun _ _ => Nat.mod_lt _ (by decide)) sbox st).symm

theorem invSubBytes_invShiftRows (st : Block) :
    invSubBytes (invShiftRows st) = invShiftRows (invSubBytes st) :=
  (permuteRows_mapBytes (fun _ _ => Nat.mod_lt _ (by decide)) invSbox st).symm

/-! ### The columns of a state -/

/-- A row of coefficients applied to a column. -/
def rowDot (r w : Word) : Byte :=
  gmul r.b0 w.b0 ^^^ gmul r.b1 w.b1 ^^^ gmul r.b2 w.b2 ^^^ gmul r.b3 w.b3

/-- The matrix whose rows are the words of `m`, multiplied to a column from the left (R103). -/
def matVec (m : Block) (w : Word) : Word := ⟨rowDot m.w0 w, rowDot m.w1 w, rowDot m.w2 w, rowDot m.w3 w⟩

/-- A row multiplied to the matrix whose rows are the words of `m`. -/
def rowMul (r : Word) (m : Block) : Word :=
  ⟨rowDot r ⟨m.w0.b0, m.w1.b0, m.w2.b0, m.w3.b0⟩, rowDot r ⟨m.w0.b1, m.w1.b1, m.w2.b1, m.w3.b1⟩,
    rowDot r ⟨m.w0.b2, m.w1.b2, m.w2.b2, m.w3.b2⟩, rowDot r ⟨m.w0.b3, m.w1.b3, m.w2.b3, m.w3.b3⟩⟩

/-- The product of two matrices given by their rows. -/
def matMul (m n : Block) : Block := ⟨rowMul m.w0 n, rowMul m.w1 n, rowMul m.w2 n, rowMul m.w3 n⟩

theorem rowDot_matVec (r : Word) (m : Block) (w : Word) :
    rowDot r (matVec m w) = rowDot (rowMul r m) w := by
  simp only [rowDot, matVec, rowMul, gmul_xor, xor_gmul, gmul_assoc]
  ac_rfl

theorem matVec_matVec (m n : Block) (w : Word) : matVec m (matVec n w) = matVec (matMul m n) w := by
  rw [matVec, rowDot_matVec, rowDot_matVec, rowDot_matVec, rowDot_matVec, matVec, matMul]

/-- The identity matrix. -/
def matOne : Block := ⟨⟨1, 0, 0, 0⟩, ⟨0, 1, 0, 0⟩, ⟨0, 0, 1, 0⟩, ⟨0, 0, 0, 1⟩⟩

theorem matVec_matOne (w : Word) : matVec matOne w = w := by
  simp [matVec, matOne, rowDot]

/-- The matrix of `MixColumns` (R103). -/
def mixMatrix : Block := ⟨⟨2, 3, 1, 1⟩, ⟨1, 2, 3, 1⟩, ⟨1, 1, 2, 3⟩, ⟨3, 1, 1, 2⟩⟩

/-- The matrix of `InvMixColumns` (R106). -/
def invMixMatrix : Block := ⟨⟨14, 11, 13, 9⟩, ⟨9, 14, 11, 13⟩, ⟨13, 9, 14, 11⟩, ⟨11, 13, 9, 14⟩⟩

theorem mixColumn_eq (w : Word) : mixColumn w = matVec mixMatrix w := by
  simp [mixColumn, matVec, mixMatrix, rowDot]

theorem invMixColumn_eq (w : Word) : invMixColumn w = matVec invMixMatrix w := rfl

theorem invMixColumn_mixColumn (w : Word) : invMixColumn (mixColumn w) = w := by
  have h : matMul invMixMatrix mixMatrix = matOne := by decide +kernel
  rw [invMixColumn_eq, mixColumn_eq, matVec_matVec, h, matVec_matOne]

theorem mixColumn_invMixColumn (w : Word) : mixColumn (invMixColumn w) = w := by
  have h : matMul mixMatrix invMixMatrix = matOne := by decide +kernel
  rw [invMixColumn_eq, mixColumn_eq, matVec_matVec, h, matVec_matOne]

theorem invMixColumns_mixColumns (st : Block) : invMixColumns (mixColumns st) = st := by
  simp [invMixColumns, mixColumns, mapColumns, invMixColumn_mixColumn]

theorem mixColumns_invMixColumns (st : Block) : mixColumns (invMixColumns st) = st := by
  simp [invMixColumns, mixColumns, mapColumns, mixColumn_invMixColumn]

/-! ### The statements -/

/-- Settles O41: loading and unloading are the flat form of R99. -/
theorem stateIsLoadedByColumns : Obligations.StateIsLoadedByColumns := by
  intro b r c hr hc
  exact ⟨stateAt_stateOfFn _ hr hc, stateAt_stateOfFn (stateAt b) hr hc⟩

/-- Settles O42: the row forms by position, and the flat forms from them. -/
theorem shiftRowsRotatesRowByItsNumber : Obligations.ShiftRowsRotatesRowByItsNumber := by
  refine ⟨fun st r c hr hc => ⟨stateAt_shiftRows st hr hc, ?_, stateAt_invShiftRows st hr hc⟩,
    fun st i hi => ⟨?_, ?_⟩, rfl⟩
  · rw [stateAt_invShiftRows st hr (by omega)]
    congr 1
    omega
  · rw [blockByte_eq_stateAt, stateAt_shiftRows st (by omega) (by omega), stateAt]
    congr 1
    omega
  · rw [blockByte_eq_stateAt, stateAt_invShiftRows st (by omega) (by omega), stateAt]
    congr 1
    omega

/-- Settles O43, pair by pair. -/
theorem roundPrimitivesUndoEachOther : Obligations.RoundPrimitivesUndoEachOther := fun st k =>
  ⟨invSubBytes_subBytes st, subBytes_invSubBytes st, invShiftRows_shiftRows st, shiftRows_invShiftRows st,
    invMixColumns_mixColumns st, mixColumns_invMixColumns st, addRoundKey_addRoundKey st k,
    subBytes_shiftRows st, invSubBytes_invShiftRows st⟩

end Sys2Proof.Machine
end

section
/-! PROOFS. `DERIVE_SCHEDULE` and the key expansion (41_key_expansion.md R120 to R124). The word recurrence
and the byte form of R123 are read off one step from a round key to the next; the step can be undone, so
each round key gives back the key. -/

namespace Sys2Proof.Machine

open Sys2Proof

/-! ### The command -/

/-- Everything `DERIVE_SCHEDULE` can do: load the expansion of a sixteen-byte key, or answer InvalidKeyLength
and keep what is held (R120, R121). -/
theorem exec_deriveSchedule_cases (s : State) (key : List Byte) :
    (∃ k, key = blockBytes k ∧
      exec (.deriveSchedule key) s = .next (answered (loadSchedule (keyExpansion k) s) 0x00#8 [])) ∨
    (key.length ≠ 16 ∧ exec (.deriveSchedule key) s = .next (answered s 0x01#8 [])) :=
  requireBlock_cases key .invalidKeyLength s _

/-- Settles O12: a sixteen-byte key is a block's bytes, so the other outcome is excluded. -/
theorem deriveScheduleLoadsTheExpansion : Obligations.DeriveScheduleLoadsTheExpansion := by
  intro s key hkey
  obtain ⟨k, hk, hexec⟩ | ⟨hne, -⟩ := exec_deriveSchedule_cases s key
  · exact ⟨k, hk.symm, hexec⟩
  · exact absurd hkey hne

/-- Settles O13: a block's bytes are sixteen, so only the error is left. -/
theorem wrongKeyLengthLeavesTheSchedule : Obligations.WrongKeyLengthLeavesTheSchedule := by
  intro s key hkey
  obtain ⟨k, rfl, -⟩ | ⟨-, hexec⟩ := exec_deriveSchedule_cases s key
  · exact absurd (blockBytes_length k) hkey
  · exact ⟨_, hexec, rfl, rfl, rfl, rfl⟩

/-! ### The round keys of a schedule -/

@[simp] theorem roundKey_zero (key : Block) : roundKey key 0 = key := rfl

theorem roundKey_succ (key : Block) (j : Nat) :
    roundKey key (j + 1) = nextRoundKey (j + 1) (roundKey key j) := rfl

theorem scheduleKey_keyExpansion (key : Block) {r : Nat} (hr : r ≤ 10) :
    scheduleKey (keyExpansion key) r = roundKey key r := by
  interval_cases r <;> rfl

/-- Round key `r` is words `4r` to `4r+3` (R123). -/
theorem scheduleWord_keyExpansion (key : Block) {r c : Nat} (hr : r ≤ 10) (hc : c < 4) :
    scheduleWord (keyExpansion key) (4 * r + c) = blockWord (roundKey key r) c := by
  rw [scheduleWord, Nat.mul_add_div (by decide), Nat.mul_add_mod, Nat.div_eq_of_lt hc, Nat.mod_eq_of_lt hc,
    Nat.add_zero, scheduleKey_keyExpansion key hr]

/-! ### One step of the expansion -/

theorem blockWord_nextRoundKey_zero (j : Nat) (p : Block) :
    blockWord (nextRoundKey j p) 0 =
      (blockWord p 0).xor ((subWord (rotWord (blockWord p 3))).xor (rconWord j)) := rfl

theorem blockWord_nextRoundKey_succ (j : Nat) (p : Block) {c : Nat} (hc : c < 3) :
    blockWord (nextRoundKey j p) (c + 1) = (blockWord p (c + 1)).xor (blockWord (nextRoundKey j p) c) := by
  interval_cases c <;> rfl

/-- The word recurrence at word `c` of round key `j + 1`, where `w[i - 4]` is the word of the round key
before and `w[i - 1]` the word before (R123). -/
theorem scheduleWord_recurrence (key : Block) {j c : Nat} (hj : j < 10) (hc : c < 4) :
    scheduleWord (keyExpansion key) (4 * (j + 1) + c) =
      (scheduleWord (keyExpansion key) (4 * j + c)).xor
        (if c = 0 then
          (subWord (rotWord (scheduleWord (keyExpansion key) (4 * j + 3)))).xor (rconWord (j + 1))
         else scheduleWord (keyExpansion key) (4 * (j + 1) + (c - 1))) := by
  rw [scheduleWord_keyExpansion key (by omega) hc, scheduleWord_keyExpansion key (by omega) hc,
    scheduleWord_keyExpansion key (by omega) (by decide), scheduleWord_keyExpansion key (by omega) (by omega),
    roundKey_succ]
  cases c with
  | zero => exact blockWord_nextRoundKey_zero _ _
  | succ c => exact blockWord_nextRoundKey_succ _ _ (by omega)

/-- The first word of the next round key by bytes: `RotWord` moves each index by one, and `RconWord` is
zero but for its first byte (R122, R123). -/
theorem blockByte_nextRoundKey_firstWord (j : Nat) (p : Block) :
    blockByte (nextRoundKey j p) 0 = blockByte p 0 ^^^ sbox (blockByte p 13) ^^^ rcon j ∧
    blockByte (nextRoundKey j p) 1 = blockByte p 1 ^^^ sbox (blockByte p 14) ∧
    blockByte (nextRoundKey j p) 2 = blockByte p 2 ^^^ sbox (blockByte p 15) ∧
    blockByte (nextRoundKey j p) 3 = blockByte p 3 ^^^ sbox (blockByte p 12) := by
  simp [blockByte, nextRoundKey, subWord, rotWord, rconWord, Word.xor, BitVec.xor_assoc]

theorem blockByte_nextRoundKey_of_four_le (j : Nat) (p : Block) {i : Nat} (hi : 4 ≤ i) (hi' : i < 16) :
    blockByte (nextRoundKey j p) i = blockByte p i ^^^ blockByte (nextRoundKey j p) (i - 4) := by
  interval_cases i <;> rfl

/-! ### The step undone -/

theorem word_xor_xor_cancel_right (v w : Word) : (v.xor w).xor w = v := by
  simp [Word.xor]

/-- The round key before round key `j`: the step of R123 run backwards (R124 (c)). -/
def previousRoundKey (j : Nat) (q : Block) : Block :=
  let w3 := q.w3.xor q.w2
  ⟨q.w0.xor ((subWord (rotWord w3)).xor (rconWord j)), q.w1.xor q.w0, q.w2.xor q.w1, w3⟩

theorem previousRoundKey_nextRoundKey (j : Nat) (p : Block) :
    previousRoundKey j (nextRoundKey j p) = p := by
  simp only [previousRoundKey, nextRoundKey, word_xor_xor_cancel_right]

/-- No two keys have the same round key `r`. -/
theorem roundKey_injective (r : Nat) : Function.Injective fun key => roundKey key r := by
  induction r with
  | zero => exact Function.injective_id
  | succ j ih =>
    have hstep : Function.LeftInverse (previousRoundKey (j + 1)) (nextRoundKey (j + 1)) :=
      previousRoundKey_nextRoundKey (j + 1)
    exact hstep.injective.comp ih

/-! ### The statements -/

/-- Settles O44: both forms are those of one step from round key `r - 1` to round key `r`. -/
theorem keyExpansionFollowsTheRecurrence : Obligations.KeyExpansionFollowsTheRecurrence := by
  rintro key _ rfl
  refine ⟨fun i hi => ?firstWords, fun i hi hi' => ?recurrence, ?byteForm⟩
  case firstWords => simpa using scheduleWord_keyExpansion key (r := 0) (by decide) hi
  case recurrence =>
    obtain ⟨j, c, hc, rfl⟩ : ∃ j c, c < 4 ∧ i = 4 * (j + 1) + c :=
      ⟨i / 4 - 1, i % 4, by omega, by omega⟩
    have hmod : (4 * (j + 1) + c) % 4 = c := by omega
    have hdiv : (4 * (j + 1) + c) / 4 = j + 1 := by omega
    have hfour : 4 * (j + 1) + c - 4 = 4 * j + c := by omega
    rw [scheduleWord_recurrence key (by omega) hc, hmod, hdiv, hfour]
    split_ifs with h0
    · rw [show 4 * (j + 1) + c - 1 = 4 * j + 3 by omega]
    · rw [show 4 * (j + 1) + c - 1 = 4 * (j + 1) + (c - 1) by omega]
  case byteForm =>
    rintro r hr hr' _ _ rfl rfl
    obtain ⟨j, rfl⟩ := Nat.exists_eq_add_of_le' hr
    rw [scheduleKey_keyExpansion key hr', scheduleKey_keyExpansion key (by omega), roundKey_succ,
      Nat.add_sub_cancel]
    obtain ⟨h0, h1, h2, h3⟩ := blockByte_nextRoundKey_firstWord (j + 1) (roundKey key j)
    exact ⟨h0, h1, h2, h3, fun i => blockByte_nextRoundKey_of_four_le _ _⟩

/-- Settles O45: each step can be undone, so every round key is an injective function of the key. -/
theorem everyRoundKeyDeterminesTheKey : Obligations.EveryRoundKeyDeterminesTheKey := by
  refine ⟨roundKey_zero, fun key key' r hr h => roundKey_injective r ?_⟩
  rwa [scheduleKey_keyExpansion key hr, scheduleKey_keyExpansion key' hr] at h

end Sys2Proof.Machine
end

section
/-! PROOFS. The block cipher and its inverse, and the commands that run them (42_block_cipher.md R130 to
R142). Each pass of one undoes the matching round of the other, so after `n` passes the state is what the
other held with `9 - n` rounds done, but for the byte and position steps in between. -/

namespace Sys2Proof.Machine

open Sys2Proof

/-! ### The commands with a schedule held -/

section commands
variable {s : State} (hks : s.ksValid = true)
include hks

/-- With a schedule held, a command that needs one runs with it (60_exceptions.md R194). -/
theorem requireSchedule_of_held (run : Schedule → Host.Outcome State Fault Refusal) :
    requireSchedule s run = run s.rk :=
  if_pos hks

theorem exec_encryptBlock (block : Block) :
    exec (.encryptBlock block) s = .next (answered s 0x00#8 (blockBytes (cipher s.rk block))) := by
  rw [exec, execEncryptBlock, requireSchedule_of_held hks]
  exact complete_eq _ s

theorem exec_decryptBlock (block : Block) :
    exec (.decryptBlock block) s = .next (answered s 0x00#8 (blockBytes (invCipher s.rk block))) := by
  rw [exec, execDecryptBlock, requireSchedule_of_held hks]
  exact complete_eq _ s

/-- The block is read back from the data bytes of the response. -/
theorem encryptBlock_answers_iff {b c : Block} :
    exec (.encryptBlock b) s = .next (answered s 0x00#8 (blockBytes c)) ↔ cipher s.rk b = c := by
  rw [exec_encryptBlock hks]
  exact ⟨fun h => Option.some.inj (congrArg answeredBlock h), fun h => h ▸ rfl⟩

/-- The block is read back from the data bytes of the response. -/
theorem decryptBlock_answers_iff {b c : Block} :
    exec (.decryptBlock c) s = .next (answered s 0x00#8 (blockBytes b)) ↔ invCipher s.rk c = b := by
  rw [exec_decryptBlock hks]
  exact ⟨fun h => Option.some.inj (congrArg answeredBlock h), fun h => h ▸ rfl⟩

end commands

/-! ### The load and the unload of a block -/

/-- The flat form of the state is the block itself (R99). -/
@[simp] theorem loadState_eq (b : Block) : loadState b = b := rfl

@[simp] theorem unloadState_eq (st : Block) : unloadState st = st := rfl

theorem cipher_eq (rk : Schedule) (b : Block) :
    cipher rk b = finalRound (cipherRounds rk b 9) (scheduleKey rk 10) :=
  unloadState_eq _

theorem invCipher_eq (rk : Schedule) (c : Block) :
    invCipher rk c = invFinalRound (invCipherRounds rk c 9) (scheduleKey rk 0) :=
  unloadState_eq _

/-! ### One round against one pass -/

/-- The addition of `RK[10]` that begins `InvCipher` undoes the one that ends `Cipher`. -/
theorem addRoundKey_finalRound (st k : Block) :
    addRoundKey (finalRound st k) k = shiftRows (subBytes st) := by
  rw [finalRound, addRoundKey_addRoundKey]

/-- A pass of R135 undoes the end of a round of R131 and leaves the beginning of it to the next pass. -/
theorem invCipherRound_shiftRows_subBytes_cipherRound (st k : Block) :
    invCipherRound (shiftRows (subBytes (cipherRound st k))) k = shiftRows (subBytes st) := by
  rw [invCipherRound, invShiftRows_shiftRows, invSubBytes_subBytes, cipherRound, addRoundKey_addRoundKey,
    invMixColumns_mixColumns]

theorem invFinalRound_shiftRows_subBytes (st k : Block) :
    invFinalRound (shiftRows (subBytes st)) k = addRoundKey st k := by
  rw [invFinalRound, invShiftRows_shiftRows, invSubBytes_subBytes]

/-- The addition of `RK[0]` that begins `Cipher` undoes the one that ends `InvCipher`. -/
theorem addRoundKey_invFinalRound (st k : Block) :
    addRoundKey (invFinalRound st k) k = invSubBytes (invShiftRows st) := by
  rw [invFinalRound, addRoundKey_addRoundKey]

/-- A round of R131 undoes the end of a pass of R135 and leaves the beginning of it to the next round. -/
theorem cipherRound_invSubBytes_invShiftRows_invCipherRound (st k : Block) :
    cipherRound (invSubBytes (invShiftRows (invCipherRound st k))) k = invSubBytes (invShiftRows st) := by
  rw [cipherRound, subBytes_invSubBytes, shiftRows_invShiftRows, invCipherRound, mixColumns_invMixColumns,
    addRoundKey_addRoundKey]

theorem finalRound_invSubBytes_invShiftRows (st k : Block) :
    finalRound (invSubBytes (invShiftRows st)) k = addRoundKey st k := by
  rw [finalRound, subBytes_invSubBytes, shiftRows_invShiftRows]

/-! ### The nine rounds against the nine passes -/

/-- `n` passes over `Cipher(RK, b)` have undone all but its first `m` rounds and the byte and position
steps of the round after them. -/
theorem invCipherRounds_cipher (rk : Schedule) (b : Block) (n m : Nat) (h : n + m = 9) :
    invCipherRounds rk (cipher rk b) n = shiftRows (subBytes (cipherRounds rk b m)) := by
  induction n generalizing m with
  | zero =>
    obtain rfl : m = 9 := by omega
    exact addRoundKey_finalRound _ _
  | succ n ih =>
    have hkey : 9 - n = m + 1 := by omega
    rw [invCipherRounds, ih (m + 1) (by omega), hkey, cipherRounds,
      invCipherRound_shiftRows_subBytes_cipherRound]

/-- `n` rounds over `InvCipher(RK, c)` have undone all but its first `m` passes and the position and byte
steps of the pass after them. -/
theorem cipherRounds_invCipher (rk : Schedule) (c : Block) (n m : Nat) (h : n + m = 9) :
    cipherRounds rk (invCipher rk c) n = invSubBytes (invShiftRows (invCipherRounds rk c m)) := by
  induction n generalizing m with
  | zero =>
    obtain rfl : m = 9 := by omega
    exact addRoundKey_invFinalRound _ _
  | succ n ih =>
    have hkey : 9 - m = n + 1 := by omega
    rw [cipherRounds, ih (m + 1) (by omega), invCipherRounds, hkey,
      cipherRound_invSubBytes_invShiftRows_invCipherRound]

/-! ### The laws -/

/-- The core correctness law, for eleven arbitrary round keys (R140). -/
theorem invCipher_cipher (rk : Schedule) (b : Block) : invCipher rk (cipher rk b) = b :=
  calc invCipher rk (cipher rk b)
      = invFinalRound (shiftRows (subBytes (cipherRounds rk b 0))) (scheduleKey rk 0) := by
        rw [invCipher_eq, invCipherRounds_cipher rk b 9 0 rfl]
    _ = addRoundKey (addRoundKey b (scheduleKey rk 0)) (scheduleKey rk 0) := by
        rw [invFinalRound_shiftRows_subBytes, cipherRounds, loadState_eq]
    _ = b := addRoundKey_addRoundKey b _

/-- The converse law (R141). -/
theorem cipher_invCipher (rk : Schedule) (c : Block) : cipher rk (invCipher rk c) = c :=
  calc cipher rk (invCipher rk c)
      = finalRound (invSubBytes (invShiftRows (invCipherRounds rk c 0))) (scheduleKey rk 10) := by
        rw [cipher_eq, cipherRounds_invCipher rk c 9 0 rfl]
    _ = addRoundKey (addRoundKey c (scheduleKey rk 10)) (scheduleKey rk 10) := by
        rw [finalRound_invSubBytes_invShiftRows, invCipherRounds, loadState_eq]
    _ = c := addRoundKey_addRoundKey c _

theorem cipher_injective (rk : Schedule) : Function.Injective (cipher rk) :=
  Function.LeftInverse.injective (invCipher_cipher rk)

/-! ### The statements -/

/-- Settles O46: pass by pass, and at command level from what the two commands answer. -/
theorem decryptUndoesEncrypt : Obligations.DecryptUndoesEncrypt := by
  refine ⟨invCipher_cipher, fun s b c hks henc => ?_⟩
  obtain rfl : cipher s.rk b = c := (encryptBlock_answers_iff hks).mp henc
  exact (decryptBlock_answers_iff hks).mpr (invCipher_cipher s.rk b)

/-- Settles O47: round by round, and at command level from what the two commands answer. -/
theorem encryptUndoesDecrypt : Obligations.EncryptUndoesDecrypt := by
  refine ⟨cipher_invCipher, fun rk b b' h => cipher_injective rk h, fun s b c hks hdec => ?_⟩
  obtain rfl : invCipher s.rk c = b := (decryptBlock_answers_iff hks).mp hdec
  exact (encryptBlock_answers_iff hks).mpr (cipher_invCipher s.rk c)

/-- Settles O14: with a schedule held, the command runs. -/
theorem encryptBlockAnswersTheCipher : Obligations.EncryptBlockAnswersTheCipher :=
  fun _ block hks => exec_encryptBlock hks block

/-- Settles O15: with a schedule held, the command runs. -/
theorem decryptBlockAnswersTheInverseCipher : Obligations.DecryptBlockAnswersTheInverseCipher :=
  fun _ block hks => exec_decryptBlock hks block

/-- Settles O48: one closed value, evaluated. -/
theorem knownAnswerOfTheSource : Obligations.KnownAnswerOfTheSource := by
  unfold Obligations.KnownAnswerOfTheSource
  decide +kernel

end Sys2Proof.Machine
end

section
/-! PROOFS. The padding engine and the commands that run it (43_padding.md R150 to R159). `unpad` succeeds
exactly on `d` followed by a padding, and the padding of `pad` is one that both settings accept. -/

namespace Sys2Proof.Machine

open Sys2Proof

/-! ### What `pad` appends -/

theorem padCount_pos (data : List Byte) : 1 ≤ padCount data := by
  unfold padCount
  omega

theorem padCount_le (data : List Byte) : padCount data ≤ 16 := Nat.sub_le _ _

@[simp] theorem pad_length (data : List Byte) : (pad data).length = data.length + padCount data := by
  simp [pad]

@[simp] theorem pad_take (data : List Byte) : (pad data).take data.length = data := by
  simp [pad]

@[simp] theorem pad_drop (data : List Byte) :
    (pad data).drop data.length = List.replicate (padCount data) (BitVec.ofNat 8 (padCount data)) := by
  simp [pad]

/-! ### When `unpad` succeeds -/

/-- The checks of R155 on the last byte `b`, then the loop over the trailing bytes under STRICT_UNPAD. -/
theorem unpad_eq_some_iff {strict : Bool} {x d : List Byte} :
    unpad strict x = some d ↔ ∃ b, x.getLast? = some b ∧ 1 ≤ b.toNat ∧ b.toNat ≤ 16 ∧
      b.toNat ≤ x.length ∧ (strict = true → ∀ y ∈ x.drop (x.length - b.toNat), y = b) ∧
      x.take (x.length - b.toNat) = d := by
  unfold unpad trailingEqual
  cases x.getLast? with
  | none => simp
  | some b =>
    simp only [Option.some.injEq, exists_eq_left', Nat.one_le_iff_ne_zero]
    split_ifs with hzero hbig hlong hdiffers
    · simp [hzero]
    · simp [hbig]
    · simp [hlong]
    · obtain ⟨hstrict, y, hy, hne⟩ : strict = true ∧ ∃ y ∈ x.drop (x.length - b.toNat), y ≠ b := by
        simpa using hdiffers
      exact iff_of_false nofun fun ⟨_, _, _, hall, _⟩ => hne (hall hstrict y hy)
    · have hall : strict = true → ∀ y ∈ x.drop (x.length - b.toNat), y = b := by
        simpa using hdiffers
      rw [Option.some.injEq]
      exact ⟨fun htake => ⟨hzero, not_lt.mp hbig, not_lt.mp hlong, hall, htake⟩,
        fun ⟨_, _, _, _, htake⟩ => htake⟩

/-- The trailing bytes that `unpad` removes: 1 to 16 of them, the last holding their number, and all
holding it where `strict` is set (R155, R156). -/
def IsPadding (strict : Bool) (tail : List Byte) : Prop :=
  1 ≤ tail.length ∧ tail.length ≤ 16 ∧ tail.getLast? = some (BitVec.ofNat 8 tail.length) ∧
    (strict = true → tail = List.replicate tail.length (BitVec.ofNat 8 tail.length))

theorem isPadding_replicate (strict : Bool) {n : Nat} (hpos : 1 ≤ n) (hle : n ≤ 16) :
    IsPadding strict (List.replicate n (BitVec.ofNat 8 n)) := by
  simp [IsPadding, List.getLast?_replicate, hpos, hle, Nat.one_le_iff_ne_zero.mp hpos]

/-- `unpad` removes a padding. -/
theorem unpad_append {strict : Bool} (body : List Byte) {tail : List Byte} (h : IsPadding strict tail) :
    unpad strict (body ++ tail) = some body := by
  obtain ⟨hpos, hle, hlast, hall⟩ := h
  have hval : (BitVec.ofNat 8 tail.length).toNat = tail.length := by
    simp only [BitVec.toNat_ofNat]
    omega
  refine unpad_eq_some_iff.mpr ⟨BitVec.ofNat 8 tail.length, by simp [hlast], ?_⟩
  rw [hval]
  refine ⟨hpos, hle, by simp, fun hstrict y hy => ?_, by simp⟩
  have hmem : y ∈ tail := by simpa using hy
  rw [hall hstrict] at hmem
  exact List.eq_of_mem_replicate hmem

/-- What `unpad` accepts ends in a padding, and the bytes before it are the result. -/
theorem unpad_eq_some_iff_append {strict : Bool} {x d : List Byte} :
    unpad strict x = some d ↔ ∃ tail, x = d ++ tail ∧ IsPadding strict tail := by
  constructor
  · intro h
    obtain ⟨b, hlast, hpos, hle, hlen, hall, rfl⟩ := unpad_eq_some_iff.mp h
    have htail : (x.drop (x.length - b.toNat)).length = b.toNat := by
      rw [List.length_drop]
      omega
    refine ⟨x.drop (x.length - b.toNat), (List.take_append_drop _ x).symm, ?_⟩
    rw [IsPadding, htail, BitVec.ofNat_toNat, BitVec.setWidth_eq]
    refine ⟨hpos, hle, ?_, fun hstrict => List.eq_replicate_iff.mpr ⟨htail, hall hstrict⟩⟩
    rw [List.getLast?_drop, if_neg (by omega), hlast]
  · rintro ⟨tail, rfl, htail⟩
    exact unpad_append d htail

/-- STRICT_UNPAD only adds the check of the loop (R156). -/
theorem unpad_lax_of_strict {x d : List Byte} (h : unpad true x = some d) : unpad false x = some d := by
  obtain ⟨b, hlast, hpos, hle, hlen, -, htake⟩ := unpad_eq_some_iff.mp h
  exact unpad_eq_some_iff.mpr ⟨b, hlast, hpos, hle, hlen, nofun, htake⟩

/-! ### `unpad` against `pad` -/

theorem unpad_pad (strict : Bool) (data : List Byte) : unpad strict (pad data) = some data :=
  unpad_append data (isPadding_replicate strict (padCount_pos data) (padCount_le data))

theorem pad_injective : Function.Injective pad := fun data data' h =>
  Option.some.inj ((unpad_pad true data).symm.trans (h ▸ unpad_pad true data'))

/-- At a multiple of 16 only one number of padding bytes is possible, and strictly they all hold it. -/
theorem pad_of_unpad_strict {x d : List Byte} (hmul : x.length % 16 = 0) (h : unpad true x = some d) :
    pad d = x := by
  obtain ⟨tail, rfl, hpos, hle, -, hall⟩ := unpad_eq_some_iff_append.mp h
  have hcount : tail.length = padCount d := by
    rw [List.length_append] at hmul
    unfold padCount
    omega
  rw [pad, ← hcount, ← hall rfl]

/-! ### The commands -/

theorem exec_pad (s : State) (data : List Byte) :
    exec (.pad data) s = .next (answered s 0x00#8 (pad data)) :=
  complete_eq (pad data) s

theorem exec_unpad_of_some {s : State} {x d : List Byte} (h : unpad s.cfg.strictUnpad x = some d) :
    exec (.unpad x) s = .next (answered s 0x00#8 d) := by
  rw [exec, execUnpad_eq, commandOutcome, h]
  rfl

/-- The result is read back from the data bytes of the response (30_encoding.md R72). -/
theorem pad_answers_iff {s : State} {d p : List Byte} :
    exec (.pad d) s = .next (answered s 0x00#8 p) ↔ pad d = p := by
  rw [exec_pad]
  refine ⟨fun h => ?_, fun h => h ▸ rfl⟩
  injection h with h
  exact congrArg (fun t : State => t.rsp.drop 5) h

/-! ### The statements -/

/-- Settles O17: the tail is a padding that the setting accepts. -/
theorem unpadRemovesThePadding : Obligations.UnpadRemovesThePadding := by
  rintro s body tail n hpos hle rfl hlast hall
  exact exec_unpad_of_some (unpad_append body ⟨hpos, hle, hlast, hall⟩)

/-- Settles O49: the number of bytes appended reaches the next multiple of 16, and `unpad` recovers the
data. -/
theorem padHasTheStatedProperties : Obligations.PadHasTheStatedProperties := by
  refine ⟨?_, fun _ _ h => pad_injective h⟩
  rintro data _ rfl
  have hpos := padCount_pos data
  have hlast : (pad data).getLast? = some (BitVec.ofNat 8 (padCount data)) := by
    simp [pad, List.getLast?_replicate, Nat.one_le_iff_ne_zero.mp hpos]
  have hlen := pad_length data
  unfold padCount at hpos hlen
  exact ⟨hlen, hpos, padCount_le data, by omega, by omega, by omega, hlast, pad_drop data, pad_take data⟩

/-- Settles O50: at command level, the response of `PAD` holds `pad` of its data. -/
theorem unpadUndoesPad : Obligations.UnpadUndoesPad := by
  refine ⟨unpad_pad, fun s u d p h => ?_, fun x d _ hmul h => pad_of_unpad_strict hmul h⟩
  obtain rfl : pad d = p := pad_answers_iff.mp h
  exact exec_unpad_of_some (unpad_pad _ d)

/-- Settles O51: the two settings share the checks on the last byte, and strictly the loop is added. -/
theorem strictUnpadOnlyRejectsMore : Obligations.StrictUnpadOnlyRejectsMore := by
  refine ⟨fun x b hlast hpos hle hlen => ⟨?_, ?_⟩, fun x d => unpad_lax_of_strict, fun x hlax => ?_,
    by decide, by decide⟩
  · exact unpad_eq_some_iff.mpr ⟨b, hlast, hpos, hle, hlen, nofun, rfl⟩
  · rintro ⟨y, hy, hne⟩
    refine Option.eq_none_iff_forall_ne_some.mpr fun d hd => hne ?_
    obtain ⟨c, hc, -, -, -, hall, -⟩ := unpad_eq_some_iff.mp hd
    obtain rfl : b = c := Option.some.inj (hlast.symm.trans hc)
    exact hall rfl y hy
  · refine Option.eq_none_iff_forall_ne_some.mpr fun d hd => ?_
    exact absurd (unpad_lax_of_strict hd) (by simp [hlax])

/-- Settles O16: `PAD` has no error of its own, and its result is `pad` of the data. -/
theorem padAnswersThePaddedData : Obligations.PadAnswersThePaddedData := by
  rintro s data _ rfl
  exact exec_pad s data

end Sys2Proof.Machine
end

section
/-! PROOFS. Blocks end to end and a buffer cut into blocks undo each other (20_memory.md R45). -/

namespace Sys2Proof.Machine

open Sys2Proof

/-- Sixteen bytes are the bytes of a block (00_scope.md R11). -/
theorem exists_blockBytes_eq {l : List Byte} (h : l.length = 16) : ∃ b, blockBytes b = l := by
  cases hb : blockOfBytes l with
  | none => exact absurd h (blockOfBytes_eq_none.mp hb)
  | some b => exact ⟨b, (blockOfBytes_eq_some.mp hb).symm⟩

@[simp] theorem joinBlocks_cons (b : Block) (bs : List Block) :
    joinBlocks (b :: bs) = blockBytes b ++ joinBlocks bs := rfl

@[simp] theorem joinBlocks_length (bs : List Block) : (joinBlocks bs).length = 16 * bs.length := by
  induction bs with
  | nil => rfl
  | cons b bs ih =>
    rw [joinBlocks_cons, List.length_append, ih, blockBytes_length, List.length_cons]
    omega

@[simp] theorem bufBlocks_length (buf : List Byte) : (bufBlocks buf).length = buf.length / 16 := by
  simp [bufBlocks]

/-- Block 0 of a buffer that begins with a block is that block. -/
@[simp] theorem bufBlock_blockBytes_append_zero (b : Block) (rest : List Byte) :
    bufBlock (blockBytes b ++ rest) 0 = b := rfl

/-- The later blocks of such a buffer are those of the bytes after it. -/
theorem bufBlock_blockBytes_append_succ (b : Block) (rest : List Byte) (i : Nat) :
    bufBlock (blockBytes b ++ rest) (i + 1) = bufBlock rest i := by
  refine congrArg blockOfFn (funext fun j => ?_)
  have hbeyond : (blockBytes b).length ≤ 16 * (i + 1) + j := by
    rw [blockBytes_length]
    omega
  have hoffset : 16 * (i + 1) + j - (blockBytes b).length = 16 * i + j := by
    rw [blockBytes_length]
    omega
  rw [bufByte, bufByte, List.getD_append_right _ _ _ _ hbeyond, hoffset]

theorem bufBlocks_blockBytes_append (b : Block) (rest : List Byte) :
    bufBlocks (blockBytes b ++ rest) = b :: bufBlocks rest := by
  have hcount : (blockBytes b ++ rest).length / 16 = rest.length / 16 + 1 := by
    rw [List.length_append, blockBytes_length]
    omega
  have hlater : bufBlock (blockBytes b ++ rest) ∘ Nat.succ = bufBlock rest :=
    funext (bufBlock_blockBytes_append_succ b rest)
  rw [bufBlocks, hcount, List.range_succ_eq_map, List.map_cons, List.map_map, hlater,
    bufBlock_blockBytes_append_zero, bufBlocks]

@[simp] theorem bufBlocks_joinBlocks (bs : List Block) : bufBlocks (joinBlocks bs) = bs := by
  induction bs with
  | nil => rfl
  | cons b bs ih => rw [joinBlocks_cons, bufBlocks_blockBytes_append, ih]

/-- A buffer of `m` times sixteen bytes is blocks end to end. -/
theorem exists_joinBlocks_eq {buf : List Byte} {m : Nat} (h : buf.length = 16 * m) :
    ∃ bs, joinBlocks bs = buf := by
  induction m generalizing buf with
  | zero => exact ⟨[], (List.eq_nil_of_length_eq_zero h).symm⟩
  | succ m ih =>
    obtain ⟨b, hb⟩ : ∃ b, blockBytes b = buf.take 16 := exists_blockBytes_eq (by simp; omega)
    obtain ⟨bs, hbs⟩ : ∃ bs, joinBlocks bs = buf.drop 16 := ih (by simp; omega)
    exact ⟨b :: bs, by rw [joinBlocks_cons, hb, hbs, List.take_append_drop]⟩

theorem joinBlocks_bufBlocks {buf : List Byte} (h : buf.length % 16 = 0) :
    joinBlocks (bufBlocks buf) = buf := by
  obtain ⟨bs, rfl⟩ := exists_joinBlocks_eq (Nat.mul_div_cancel' (Nat.dvd_of_mod_eq_zero h)).symm
  rw [bufBlocks_joinBlocks]

end Sys2Proof.Machine
end

section
/-! PROOFS. The equations of CBC (44_cbc.md R170, R175, "As equations"): each block is made from the one at
its place and the ciphertext block before it, and the two sets of equations undo each other. -/

namespace Sys2Proof.Machine

open Sys2Proof

/-! ### The exclusive or of blocks -/

theorem block_xor_comm (a b : Block) : a.xor b = b.xor a := by
  simp [Block.xor, Word.xor, BitVec.xor_comm]

@[simp] theorem block_xor_xor_cancel_right (a k : Block) : (a.xor k).xor k = a :=
  addRoundKey_addRoundKey a k

theorem block_xor_left_injective (k : Block) : Function.Injective fun a : Block => a.xor k :=
  Function.LeftInverse.injective (g := fun a : Block => a.xor k) fun a => block_xor_xor_cancel_right a k

theorem block_xor_right_injective (k : Block) : Function.Injective k.xor := fun a b h =>
  block_xor_left_injective k (by simpa only [block_xor_comm k] using h)

/-! ### The blocks of the equations -/

@[simp] theorem cbcCipherBlocks_length (rk : Schedule) (prev : Block) (ps : List Block) :
    (cbcCipherBlocks rk prev ps).length = ps.length := by
  induction ps generalizing prev with
  | nil => rfl
  | cons p ps ih => rw [cbcCipherBlocks, List.length_cons, ih, List.length_cons]

@[simp] theorem cbcPlainBlocks_length (rk : Schedule) (prev : Block) (cs : List Block) :
    (cbcPlainBlocks rk prev cs).length = cs.length := by
  induction cs generalizing prev with
  | nil => rfl
  | cons c cs ih => rw [cbcPlainBlocks, List.length_cons, ih, List.length_cons]

/-- The ciphertext of the first blocks is the first blocks of the ciphertext: no block depends on a later
one (R171 (c)). -/
theorem cbcCipherBlocks_take (rk : Schedule) (prev : Block) (ps : List Block) (n : Nat) :
    (cbcCipherBlocks rk prev ps).take n = cbcCipherBlocks rk prev (ps.take n) := by
  induction ps generalizing prev n with
  | nil => simp [cbcCipherBlocks]
  | cons p ps ih =>
    cases n with
    | zero => rfl
    | succ n => rw [cbcCipherBlocks, List.take_succ_cons, ih, List.take_succ_cons, cbcCipherBlocks]

/-- `C[i] = Cipher(RK, P[i] xor C[i-1])` for all blocks at once: the blocks before are the IV and then the
ciphertext itself (R170). -/
theorem cbcCipherBlocks_eq_zipWith (rk : Schedule) (iv : Block) (ps : List Block) :
    cbcCipherBlocks rk iv ps =
      List.zipWith (fun p c => cipher rk (p.xor c)) ps (iv :: cbcCipherBlocks rk iv ps) := by
  induction ps generalizing iv with
  | nil => rfl
  | cons p ps ih => rw [cbcCipherBlocks, List.zipWith_cons_cons, ← ih]

/-- Decrypting takes off what encrypting put on: the inverse cipher, then the same block before (R180). -/
theorem cbcPlainBlocks_cbcCipherBlocks (rk : Schedule) (iv : Block) (ps : List Block) :
    cbcPlainBlocks rk iv (cbcCipherBlocks rk iv ps) = ps := by
  induction ps generalizing iv with
  | nil => rfl
  | cons p ps ih =>
    rw [cbcCipherBlocks, cbcPlainBlocks, ih, invCipher_cipher, block_xor_xor_cancel_right]

/-! ### The byte strings -/

/-- `pad` fills the last block, or adds one (43_padding.md R152). -/
theorem pad_length_eq_blocks (data : List Byte) : (pad data).length = (data.length / 16 + 1) * 16 := by
  obtain ⟨-, -, -, -, hblocks, -⟩ := padHasTheStatedProperties.1 data _ rfl
  exact hblocks

/-- A plaintext of `n` bytes makes `n / 16 + 1` blocks of ciphertext (R171 (a)). -/
theorem cbcEncrypt_length (rk : Schedule) (iv : Block) (pt : List Byte) :
    (cbcEncrypt rk iv pt).length = (pt.length / 16 + 1) * 16 := by
  rw [cbcEncrypt, joinBlocks_length, cbcCipherBlocks_length, bufBlocks_length, pad_length_eq_blocks]
  omega

/-- The blocks of `cbc_encrypt` are those of the equations. -/
theorem bufBlocks_cbcEncrypt (rk : Schedule) (iv : Block) (pt : List Byte) :
    bufBlocks (cbcEncrypt rk iv pt) = cbcCipherBlocks rk iv (bufBlocks (pad pt)) :=
  bufBlocks_joinBlocks _

/-- A ciphertext is acceptable when it is blocks, and not none (60_exceptions.md R198). -/
theorem ciphertextLengthOk_iff {ct : List Byte} :
    ciphertextLengthOk ct = true ↔ ct.length ≠ 0 ∧ ct.length % 16 = 0 := by
  simp [ciphertextLengthOk]

/-- When `cbc_decrypt` returns a value (R175). -/
theorem cbcDecrypt_eq_ok_iff {strict : Bool} {rk : Schedule} {iv : Block} {ct d : List Byte} :
    cbcDecrypt strict rk iv ct = .ok d ↔
      ciphertextLengthOk ct = true ∧
        unpad strict (joinBlocks (cbcPlainBlocks rk iv (bufBlocks ct))) = some d := by
  unfold cbcDecrypt
  split_ifs with hlen
  · cases unpad strict (joinBlocks (cbcPlainBlocks rk iv (bufBlocks ct))) <;> simp [hlen]
  · simp [hlen]

/-- The round-trip law of the equations, under both settings (R180). -/
theorem cbcDecrypt_cbcEncrypt (strict : Bool) (rk : Schedule) (iv : Block) (pt : List Byte) :
    cbcDecrypt strict rk iv (cbcEncrypt rk iv pt) = .ok pt := by
  have hlen := cbcEncrypt_length rk iv pt
  have hpad : (pad pt).length % 16 = 0 := by rw [pad_length_eq_blocks, Nat.mul_mod_left]
  refine cbcDecrypt_eq_ok_iff.mpr ⟨ciphertextLengthOk_iff.mpr ⟨by omega, by omega⟩, ?_⟩
  rw [bufBlocks_cbcEncrypt, cbcPlainBlocks_cbcCipherBlocks, joinBlocks_bufBlocks hpad, unpad_pad]

/-- Settles O52: the length by blocks, the dependence on the first blocks alone, and the plaintext given
back by decryption. -/
theorem cbcEncryptHasTheStatedProperties : Obligations.CbcEncryptHasTheStatedProperties := by
  refine ⟨fun rk iv pt => ?length, fun rk iv pt pt' i h => ?firstBlocks,
    fun rk iv pt pt' h => ?injective⟩
  case length =>
    rw [pad_length_eq_blocks, cbcEncrypt_length]
    omega
  case firstBlocks =>
    rw [bufBlocks_cbcEncrypt, bufBlocks_cbcEncrypt, cbcCipherBlocks_take, h, cbcCipherBlocks_take]
  case injective =>
    have hback := cbcDecrypt_cbcEncrypt true rk iv pt
    rw [h, cbcDecrypt_cbcEncrypt] at hback
    exact (Except.ok.inj hback).symm

end Sys2Proof.Machine
end

section
/-! PROOFS. How a change of plaintext spreads (44_cbc.md R172): a ciphertext block is fixed by its plaintext
block and the block before it, and a change of exactly one of these two changes it. -/

namespace Sys2Proof.Machine

open Sys2Proof

variable {rk : Schedule} {iv : Block} {P P' C C' : List Block} {i : Nat}

/-- Where the plaintext blocks and the blocks before agree, so do the ciphertext blocks. -/
theorem cipherBlock_congr (hC : C = cbcCipherBlocks rk iv P) (hC' : C' = cbcCipherBlocks rk iv P')
    (hplain : P[i]? = P'[i]?) (hbefore : (iv :: C)[i]? = (iv :: C')[i]?) : C[i]? = C'[i]? := by
  subst hC hC'
  rw [cbcCipherBlocks_eq_zipWith, cbcCipherBlocks_eq_zipWith rk iv P', List.getElem?_zipWith,
    List.getElem?_zipWith, hplain, hbefore]

/-- A ciphertext block is the cipher of its plaintext block and the block before it. -/
theorem exists_cipherBlock (hC : C = cbcCipherBlocks rk iv P) (hi : i < P.length) :
    ∃ p c, P[i]? = some p ∧ (iv :: C)[i]? = some c ∧ C[i]? = some (cipher rk (p.xor c)) := by
  subst hC
  obtain ⟨p, hplain⟩ : ∃ p, P[i]? = some p := ⟨_, List.getElem?_eq_getElem hi⟩
  obtain ⟨c, hbefore⟩ : ∃ c, (iv :: cbcCipherBlocks rk iv P)[i]? = some c :=
    ⟨_, List.getElem?_eq_getElem (by simp; omega)⟩
  refine ⟨p, c, hplain, hbefore, ?_⟩
  rw [cbcCipherBlocks_eq_zipWith, List.getElem?_zipWith, hplain, hbefore]

/-- Where the blocks before agree, different plaintext blocks have different ciphertext blocks. -/
theorem cipherBlock_ne_of_plain_ne (hC : C = cbcCipherBlocks rk iv P)
    (hC' : C' = cbcCipherBlocks rk iv P') (hlen : P.length = P'.length) (hplain : P[i]? ≠ P'[i]?)
    (hbefore : (iv :: C)[i]? = (iv :: C')[i]?) : C[i]? ≠ C'[i]? := by
  have hi : i < P.length := by
    by_contra hi
    exact hplain (by rw [List.getElem?_eq_none (by omega), List.getElem?_eq_none (by omega)])
  obtain ⟨p, c, hp, hc, hblock⟩ := exists_cipherBlock hC hi
  obtain ⟨p', c', hp', hc', hblock'⟩ := exists_cipherBlock hC' (hlen ▸ hi)
  intro heq
  rw [hblock, hblock', Option.some.injEq, (cipher_injective rk).eq_iff] at heq
  obtain rfl : c = c' := Option.some.inj (hc.symm.trans (hbefore.trans hc'))
  exact hplain (by rw [hp, hp', block_xor_left_injective c heq])

/-- Where the plaintext blocks agree, different blocks before have different ciphertext blocks after them. -/
theorem cipherBlock_ne_of_before_ne (hC : C = cbcCipherBlocks rk iv P)
    (hC' : C' = cbcCipherBlocks rk iv P') (hlen : P.length = P'.length) (hi : i < P.length)
    (hplain : P[i]? = P'[i]?) (hbefore : (iv :: C)[i]? ≠ (iv :: C')[i]?) : C[i]? ≠ C'[i]? := by
  obtain ⟨p, c, hp, hc, hblock⟩ := exists_cipherBlock hC hi
  obtain ⟨p', c', hp', hc', hblock'⟩ := exists_cipherBlock hC' (hlen ▸ hi)
  intro heq
  rw [hblock, hblock', Option.some.injEq, (cipher_injective rk).eq_iff] at heq
  obtain rfl : p = p' := Option.some.inj (hp.symm.trans (hplain.trans hp'))
  exact hbefore (by rw [hc, hc', block_xor_right_injective p heq])

/-- Settles O53: up to block `j` by induction from the IV, at block `j` by the plaintext block alone, after it
by the block before alone. -/
theorem plaintextChangeDiffusesForward : Obligations.PlaintextChangeDiffusesForward := by
  intro rk iv pt pt' j P P' C C' hpt hP hP' hC hC' hagree hdiffer
  have hlen : P.length = P'.length := by
    rw [hP, hP', bufBlocks_length, bufBlocks_length, pad_length_eq_blocks, pad_length_eq_blocks, hpt]
  rw [bufBlocks_cbcEncrypt, ← hP] at hC
  rw [bufBlocks_cbcEncrypt, ← hP'] at hC'
  have hbefore : ∀ i ≤ j, (iv :: C)[i]? = (iv :: C')[i]? := by
    intro i
    induction i with
    | zero => exact fun _ => rfl
    | succ i ih =>
      intro hi
      rw [List.getElem?_cons_succ, List.getElem?_cons_succ]
      exact cipherBlock_congr hC hC' (hagree i hi) (ih (Nat.le_of_succ_le hi))
  have hblock : C[j]? ≠ C'[j]? := cipherBlock_ne_of_plain_ne hC hC' hlen hdiffer (hbefore j le_rfl)
  have hlater : ∀ i, j < i → i < P.length → P[i]? = P'[i]? → C[i - 1]? ≠ C'[i - 1]? →
      C[i]? ≠ C'[i]? := by
    intro i hji hi hplain hne
    obtain ⟨i, rfl⟩ := Nat.exists_eq_succ_of_ne_zero (Nat.ne_zero_of_lt hji)
    exact cipherBlock_ne_of_before_ne hC hC' hlen hi hplain hne
  refine ⟨fun i hi => hbefore (i + 1) hi, hblock, hlater, fun hconfined i hji => ?_⟩
  induction i, hji using Nat.le_induction with
  | base => exact fun _ => hblock
  | succ i hji ih =>
    exact fun hi => hlater (i + 1) (by omega) hi (hconfined _ (by omega)) (ih (by omega))

end Sys2Proof.Machine
end

section
/-! PROOFS. The two CBC commands and the chaining unit's block step (44_cbc.md R166 to R181). With a
schedule held each answers what its equations give, and every claim on a command is read off that. -/

namespace Sys2Proof.Machine

open Sys2Proof

/-! ### What the commands answer with a schedule held -/

theorem withBlock_of_length_ne {bytes : List Byte} (h : bytes.length ≠ 16) (e : ErrorCode)
    (run : Block → Except ErrorCode (List Byte)) : withBlock bytes e run = .error e := by
  rw [withBlock, blockOfBytes_eq_none.mpr h]

/-- A state answered OK with `d` is the state of the outcome `d`: the status byte tells it from an error,
the data bytes from another result (30_encoding.md R72, R73). -/
theorem next_answeredWith_eq_ok_iff {r : Except ErrorCode (List Byte)} {s : State} {d : List Byte} :
    Host.Outcome.next (φ := Fault) (ρ := Refusal) (answeredWith r s) = .next (answered s 0x00#8 d) ↔
      r = .ok d := by
  refine ⟨fun h => ?_, fun h => h ▸ rfl⟩
  injection h with h
  have hrsp := congrArg State.rsp h
  cases r with
  | ok v => exact congrArg Except.ok (congrArg (List.drop 5) hrsp)
  | error e =>
    have hstatus : errorStatus e = 0x00#8 := (List.cons.inj hrsp).1
    cases e <;> cases hstatus

section commands
variable {s : State} (hks : s.ksValid = true)
include hks

theorem withHeld_of_held (run : Schedule → Except ErrorCode (List Byte)) :
    withHeld (persistent s) run = run s.rk :=
  if_pos hks

theorem exec_cbcEncrypt_of_held (iv data : List Byte) :
    exec (.cbcEncrypt iv data) s =
      .next (answeredWith (withBlock iv .invalidIVLength fun v => .ok (cbcEncrypt s.rk v data)) s) := by
  rw [exec, execCbcEncrypt_eq, commandOutcome, withHeld_of_held hks]

theorem exec_cbcDecrypt_of_held (iv data : List Byte) :
    exec (.cbcDecrypt iv data) s =
      .next (answeredWith
        (withBlock iv .invalidIVLength fun v => cbcDecrypt s.cfg.strictUnpad s.rk v data) s) := by
  rw [exec, execCbcDecrypt_eq, commandOutcome, withHeld_of_held hks]

/-- `CBC_ENCRYPT` with a block for its IV answers `cbc_encrypt` (R168). -/
theorem exec_cbcEncrypt (v : Block) (data : List Byte) :
    exec (.cbcEncrypt (blockBytes v) data) s = .next (answered s 0x00#8 (cbcEncrypt s.rk v data)) :=
  exec_cbcEncrypt_of_held hks (blockBytes v) data

/-- `CBC_DECRYPT` with a block for its IV answers what `cbc_decrypt` returns or raises (R173). -/
theorem exec_cbcDecrypt (v : Block) (data : List Byte) :
    exec (.cbcDecrypt (blockBytes v) data) s =
      .next (answeredWith (cbcDecrypt s.cfg.strictUnpad s.rk v data) s) :=
  exec_cbcDecrypt_of_held hks (blockBytes v) data

theorem cbcDecrypt_answers_iff {v : Block} {data d : List Byte} :
    exec (.cbcDecrypt (blockBytes v) data) s = .next (answered s 0x00#8 d) ↔
      cbcDecrypt s.cfg.strictUnpad s.rk v data = .ok d := by
  rw [exec_cbcDecrypt hks, next_answeredWith_eq_ok_iff]

/-- `CBC_ENCRYPT` is answered OK only with sixteen bytes of IV (R169). -/
theorem cbcEncrypt_answers_iff {iv data c : List Byte} :
    exec (.cbcEncrypt iv data) s = .next (answered s 0x00#8 c) ↔
      ∃ v, blockBytes v = iv ∧ cbcEncrypt s.rk v data = c := by
  rw [exec_cbcEncrypt_of_held hks, next_answeredWith_eq_ok_iff]
  constructor
  · intro h
    by_cases hiv : iv.length = 16
    · obtain ⟨v, rfl⟩ := exists_blockBytes_eq hiv
      exact ⟨v, rfl, Except.ok.inj h⟩
    · rw [withBlock_of_length_ne hiv] at h
      cases h
  · rintro ⟨v, rfl, rfl⟩
    rfl

end commands

/-! ### The statements on one command -/

/-- Settles O24: the two settings are the two equations of the block step. -/
theorem arbiterSettingsFollowTheTable : Obligations.ArbiterSettingsFollowTheTable := by
  rintro rk w i _ rfl
  exact ⟨chainStep_pre rk w i, chainStep_post rk w i⟩

/-- Settles O19: sixteen bytes of IV are a block, and the registers' run is `cbc_encrypt`. -/
theorem cbcEncryptAnswersTheEquations : Obligations.CbcEncryptAnswersTheEquations := by
  intro s iv data hks hiv
  obtain ⟨v, rfl⟩ := exists_blockBytes_eq hiv
  exact ⟨v, rfl, exec_cbcEncrypt hks v data⟩

/-- Settles O20: the registers' run is `cbc_decrypt`. -/
theorem cbcDecryptAnswersTheEquations : Obligations.CbcDecryptAnswersTheEquations :=
  fun _ _ _ _ hks hdec => (cbcDecrypt_answers_iff hks).mpr hdec

/-- Settles O22: the IV is no block, so nothing is run; and the frame is the encoding of the command with an
empty IV. -/
theorem cbcEncryptRejectsWrongIvLength : Obligations.CbcEncryptRejectsWrongIvLength := by
  refine ⟨fun s iv data hks hiv => ⟨_, ?rejected, rfl, rfl⟩, fun c data hlimit hfield => ?framed⟩
  case rejected =>
    rw [exec_cbcEncrypt_of_held hks, withBlock_of_length_ne hiv]
    rfl
  case framed =>
    refine decode_eq_ok_iff.mpr ⟨rfl, ?_⟩
    simp [Instr.wellFormed, fitsLengthField, fitsDataLimit, hlimit, hfield]

/-- Settles O23: each check is reached only when the ones before it pass, and each error carries no data. -/
theorem cbcDecryptReportsErrorsInOrder : Obligations.CbcDecryptReportsErrorsInOrder := by
  intro s iv data hks
  refine ⟨fun hiv => ?ivLength, fun hiv hlen => ?ciphertextLength, ?padding⟩
  case ivLength =>
    rw [exec_cbcDecrypt_of_held hks, withBlock_of_length_ne hiv]
    rfl
  case ciphertextLength =>
    obtain ⟨v, rfl⟩ := exists_blockBytes_eq hiv
    have hbad : ¬ciphertextLengthOk data = true := by
      rw [ciphertextLengthOk_iff]
      omega
    rw [exec_cbcDecrypt hks, cbcDecrypt, if_neg hbad]
    rfl
  case padding =>
    rintro v rfl hne hmul hunpad
    rw [exec_cbcDecrypt hks, cbcDecrypt, if_pos (ciphertextLengthOk_iff.mpr ⟨hne, hmul⟩), hunpad]
    rfl

/-! ### The round trip -/

/-- Settles O54: the command level is the round trip of the equations, for the schedule that both states
hold. -/
theorem cbcDecryptUndoesCbcEncrypt : Obligations.CbcDecryptUndoesCbcEncrypt := by
  refine ⟨cbcDecrypt_cbcEncrypt, fun s u iv p c hks hku hrk hcfg henc => ?_⟩
  obtain ⟨hmax, -⟩ := hcfg
  obtain ⟨v, rfl, rfl⟩ := (cbcEncrypt_answers_iff hks).mp henc
  refine ⟨fun hp => ?fits, fun hc => ⟨?framed, ?answered⟩⟩
  case fits =>
    rw [cbcEncrypt_length]
    omega
  case framed =>
    have hfield : (cbcEncrypt s.rk v p).length < 4294967296 := by omega
    simp [Instr.wellFormed, fitsLengthField, fitsDataLimit, hc, hfield]
  case answered =>
    refine (cbcDecrypt_answers_iff hku).mpr ?_
    rw [hrk, cbcDecrypt_cbcEncrypt]

/-! ### A wrong IV -/

/-- A padding is within the last sixteen bytes, so what stands before them stays (43_padding.md R155). -/
theorem unpad_append_of_le_length (strict : Bool) (front : List Byte) {rest : List Byte}
    (hrest : 16 ≤ rest.length) :
    unpad strict (front ++ rest) = (unpad strict rest).map (front ++ ·) := by
  ext1 d
  rw [unpad_eq_some_iff_append, Option.map_eq_some_iff]
  constructor
  · rintro ⟨tail, hd, htail⟩
    have ⟨_, hle, _⟩ := htail
    obtain ⟨e, rfl⟩ : tail <:+ rest :=
      List.suffix_of_suffix_length_le ⟨d, hd.symm⟩ (List.suffix_append front rest) (hle.trans hrest)
    rw [← List.append_assoc, List.append_cancel_right_eq] at hd
    exact ⟨e, unpad_append e htail, hd⟩
  · rintro ⟨e, he, rfl⟩
    obtain ⟨tail, rfl, htail⟩ := unpad_eq_some_iff_append.mp he
    exact ⟨tail, (List.append_assoc front e tail).symm, htail⟩

/-- Of more than one block of ciphertext only the first decrypted block takes the IV (R175). -/
theorem exists_chained_first_block (rk : Schedule) {ct : List Byte} (hlen : 16 < ct.length)
    (hmul : ct.length % 16 = 0) :
    ∃ (y : Block) (rest : List Byte), 16 ≤ rest.length ∧
      ∀ v, joinBlocks (cbcPlainBlocks rk v (bufBlocks ct)) = blockBytes (y.xor v) ++ rest := by
  have hcount := bufBlocks_length ct
  cases hblocks : bufBlocks ct with
  | nil =>
    rw [hblocks, List.length_nil] at hcount
    omega
  | cons c cs =>
    rw [hblocks, List.length_cons] at hcount
    refine ⟨invCipher rk c, joinBlocks (cbcPlainBlocks rk c cs), ?_, fun v => rfl⟩
    rw [joinBlocks_length, cbcPlainBlocks_length]
    omega

/-- Settles O55: the padding is in the rest, which the IV does not reach, and the exclusive or with each IV
gives back the first block's inverse cipher. -/
theorem wrongIvSpoilsOnlyTheFirstBlock : Obligations.WrongIvSpoilsOnlyTheFirstBlock := by
  intro s v v' ct d hks hlen hexec
  obtain ⟨hok, hd⟩ := cbcDecrypt_eq_ok_iff.mp ((cbcDecrypt_answers_iff hks).mp hexec)
  obtain ⟨-, hmul⟩ := ciphertextLengthOk_iff.mp hok
  obtain ⟨y, rest, hrest, hchained⟩ := exists_chained_first_block s.rk hlen hmul
  rw [hchained, unpad_append_of_le_length _ _ hrest, Option.map_eq_some_iff] at hd
  obtain ⟨e, he, rfl⟩ := hd
  refine ⟨blockBytes (y.xor v') ++ e, ?answered, by simp, rfl, by simp⟩
  refine (cbcDecrypt_answers_iff hks).mpr (cbcDecrypt_eq_ok_iff.mpr ⟨hok, ?_⟩)
  rw [hchained, unpad_append_of_le_length _ _ hrest, he, Option.map_some]

/-! ### CBC by the block commands -/

section host
variable {s : State} (hks : s.ksValid = true)
include hks

theorem answeredBlock_encryptBlock (b : Block) :
    answeredBlock (exec (.encryptBlock b) s) = some (cipher s.rk b) := by
  rw [exec_encryptBlock hks]
  rfl

theorem answeredBlock_decryptBlock (c : Block) :
    answeredBlock (exec (.decryptBlock c) s) = some (invCipher s.rk c) := by
  rw [exec_decryptBlock hks]
  rfl

/-- The host's own chaining with `ENCRYPT_BLOCK` gives the equations' ciphertext (R181). -/
theorem hostCipherBlocks_eq (v : Block) (ps : List Block) :
    hostCipherBlocks s v ps = some (joinBlocks (cbcCipherBlocks s.rk v ps)) := by
  induction ps generalizing v with
  | nil => rfl
  | cons p ps ih =>
    simp only [hostCipherBlocks, answeredBlock_encryptBlock hks, ih, Option.map_some, cbcCipherBlocks,
      joinBlocks_cons]

/-- The host's own chaining with `DECRYPT_BLOCK` gives the equations' decrypted blocks (R181). -/
theorem hostPlainBlocks_eq (v : Block) (cs : List Block) :
    hostPlainBlocks s v cs = some (joinBlocks (cbcPlainBlocks s.rk v cs)) := by
  induction cs generalizing v with
  | nil => rfl
  | cons c cs ih =>
    simp only [hostPlainBlocks, answeredBlock_decryptBlock hks, ih, Option.map_some, cbcPlainBlocks,
      joinBlocks_cons]

end host

/-- Where the ciphertext's length is right, `CBC_DECRYPT` ends as `UNPAD` of the decrypted blocks does
(R175). -/
theorem commandOutcome_unpad_eq_cbcDecrypt {c : Config} {p : Persistent} {rk : Schedule} {v : Block}
    {ct : List Byte} (hok : ciphertextLengthOk ct = true) :
    commandOutcome c p (.unpad (joinBlocks (cbcPlainBlocks rk v (bufBlocks ct)))) =
      cbcDecrypt c.strictUnpad rk v ct :=
  (if_pos hok).symm

/-- The empty message is padded to one block (43_padding.md R151). -/
theorem bufBlocks_pad_nil : bufBlocks (pad []) = [fullPadBlock] := rfl

/-- Settles O56: the host's chaining and the core's are the same equations, and of the empty message one block
of padding is left. -/
theorem blockCommandsAloneMakeCbc : Obligations.BlockCommandsAloneMakeCbc := by
  refine ⟨fun s v p hks => ?encrypt, fun s v ct hks hne hmul => ?decrypt, fun rk iv => ?emptyMessage⟩
  case encrypt =>
    exact ⟨pad p, cbcEncrypt s.rk v p, exec_pad s p, hostCipherBlocks_eq hks v _, exec_cbcEncrypt hks v p⟩
  case decrypt =>
    have hok := ciphertextLengthOk_iff.mpr ⟨hne, hmul⟩
    refine ⟨_, hostPlainBlocks_eq hks v _, ?_⟩
    rw [exec_cbcDecrypt hks, exec, execUnpad_eq, commandOutcome_unpad_eq_cbcDecrypt hok]
  case emptyMessage =>
    rw [cbcEncrypt, bufBlocks_pad_nil, block_xor_comm iv]
    exact List.append_nil _

end Sys2Proof.Machine
end

section
/-! PROOFS. The errors of the commands (60_exceptions.md R194 to R200). The response tells which error the
dispatch function raises, and a command that raises one leaves the persistent state. -/

namespace Sys2Proof.Machine

open Sys2Proof

/-! ### The error read back from the response -/

/-- Each error has a code of its own (60_exceptions.md R191). -/
theorem errorStatus_injective : Function.Injective errorStatus := by
  intro e e' h
  cases e <;> cases e' <;> cases h <;> rfl

/-- No error has the status of OK (30_encoding.md R73). -/
theorem errorStatus_ne_ok (e : ErrorCode) : errorStatus e ≠ 0x00#8 := by
  cases e <;> decide

/-- The status byte tells an error from OK and from every other error (30_encoding.md R73). -/
theorem outcomeFrame_eq_error_iff {r : Except ErrorCode (List Byte)} {e : ErrorCode} :
    outcomeFrame r = outcomeFrame (.error e) ↔ r = .error e := by
  refine ⟨fun h => ?_, congrArg outcomeFrame⟩
  cases r with
  | ok v => exact absurd (List.cons.inj h).1.symm (errorStatus_ne_ok e)
  | error e' => exact congrArg Except.error (errorStatus_injective (List.cons.inj h).1)

@[simp] theorem hold_persistent (s : State) : hold (persistent s) s = s := rfl

/-- A command that raises an error keeps the persistent state (60_exceptions.md R196). -/
theorem commandPersistent_of_error {c : Config} {p : Persistent} {i : Instr} {e : ErrorCode}
    (h : commandOutcome c p i = .error e) : commandPersistent p i = p := by
  cases i with
  | deriveSchedule key =>
    simp only [commandOutcome, withBlock, commandPersistent] at h ⊢
    cases hkey : blockOfBytes key with
    | some k => simp [hkey] at h
    | none => rfl
  | _ => rfl

/-- A command is answered with an error and nothing else exactly where the dispatch function raises that
error. -/
theorem exec_answers_error_iff {i : Instr} {s : State} {e : ErrorCode} :
    exec i s = .next (answered s (errorStatus e) []) ↔
      commandOutcome s.cfg (persistent s) i = .error e := by
  rw [exec_eq]
  constructor
  · intro h
    injection h with h
    have hrsp := congrArg State.rsp h
    rw [answeredWith_rsp] at hrsp
    exact outcomeFrame_eq_error_iff.mp hrsp
  · intro h
    rw [h, commandPersistent_of_error h, hold_persistent, answeredWith]

/-! ### InvalidPadding -/

/-- What `unpad` rejects is what R200 lists: the checks of R155 negated one by one. -/
theorem unpad_eq_none_iff {strict : Bool} {data : List Byte} :
    unpad strict data = none ↔ badPadding strict data := by
  unfold unpad badPadding trailingEqual
  cases hlast : data.getLast? with
  | none => exact iff_of_true rfl (.inl (List.getLast?_eq_none_iff.mp hlast))
  | some b =>
    have hne : data ≠ [] := by
      rintro rfl
      cases hlast
    simp only [hne, false_or, Option.some.injEq, exists_eq_left']
    split_ifs with hzero hbig hlong hdiffers
    · simp [hzero]
    · simp [hbig]
    · simp [hlong]
    · exact iff_of_true rfl (.inr (.inr (.inr (by simpa using hdiffers))))
    · simpa [hzero, hbig, hlong] using hdiffers

/-- `UNPAD` raises InvalidPadding where `unpad` rejects its data (43_padding.md R154, R155). -/
theorem exec_unpad_answers_invalidPadding_iff {s : State} {data : List Byte} :
    exec (.unpad data) s = .next (answered s 0x04#8 []) ↔ badPadding s.cfg.strictUnpad data := by
  refine (exec_answers_error_iff (e := .invalidPadding)).trans (Iff.trans ?_ unpad_eq_none_iff)
  rw [commandOutcome]
  cases unpad s.cfg.strictUnpad data <;> simp

/-- With a schedule held and a ciphertext of whole blocks, `CBC_DECRYPT` ends as `UNPAD` of the decrypted
blocks does (44_cbc.md R175). -/
theorem exec_cbcDecrypt_eq_exec_unpad {s : State} (hks : s.ksValid = true) (v : Block) {data : List Byte}
    (hok : ciphertextLengthOk data = true) :
    exec (.cbcDecrypt (blockBytes v) data) s =
      exec (.unpad (joinBlocks (cbcPlainBlocks s.rk v (bufBlocks data)))) s := by
  rw [exec_cbcDecrypt hks, exec, execUnpad_eq, commandOutcome_unpad_eq_cbcDecrypt hok]

/-- Settles O18: `UNPAD` rejects what `unpad` rejects, and `CBC_DECRYPT` ends as `UNPAD` of the decrypted
blocks. -/
theorem unpadRejectsExactlyBadPadding : Obligations.UnpadRejectsExactlyBadPadding := by
  refine fun s => ⟨fun data => exec_unpad_answers_invalidPadding_iff, fun v data hks hne hmul => ?_⟩
  rw [exec_cbcDecrypt_eq_exec_unpad hks v (ciphertextLengthOk_iff.mpr ⟨hne, hmul⟩)]
  exact exec_unpad_answers_invalidPadding_iff

/-! ### NoSchedule -/

/-- A run that raises no NoSchedule of its own: it is raised exactly where no schedule is held (R194). -/
theorem withHeld_eq_noSchedule_iff {p : Persistent} {run : Schedule → Except ErrorCode (List Byte)}
    (hrun : run p.rk ≠ .error .noSchedule) :
    withHeld p run = .error .noSchedule ↔ p.ksValid = false := by
  unfold withHeld
  split_ifs with hheld
  · simp [hheld, hrun]
  · simp [hheld]

/-- An operand of a wrong length raises its own error (R192, R193), so another one can only come from the
run. -/
theorem withBlock_ne_error {bytes : List Byte} {e e' : ErrorCode}
    {run : Block → Except ErrorCode (List Byte)} (hne : e ≠ e') (hrun : ∀ b, run b ≠ .error e') :
    withBlock bytes e run ≠ .error e' := by
  unfold withBlock
  cases blockOfBytes bytes with
  | some b => exact hrun b
  | none => simpa using hne

/-- `cbc_decrypt` raises only its own two errors (44_cbc.md R175). -/
theorem cbcDecrypt_ne_noSchedule (strict : Bool) (rk : Schedule) (iv : Block) (ct : List Byte) :
    cbcDecrypt strict rk iv ct ≠ .error .noSchedule := by
  unfold cbcDecrypt
  split_ifs
  · cases unpad strict (joinBlocks (cbcPlainBlocks rk iv (bufBlocks ct))) <;> simp
  · simp

/-- The dispatch function raises NoSchedule for the four commands of R194 while none is held, before it looks
at their operands (R197), and never otherwise. -/
theorem commandOutcome_eq_noSchedule_iff {c : Config} {p : Persistent} {i : Instr} :
    commandOutcome c p i = .error .noSchedule ↔ needsSchedule i = true ∧ p.ksValid = false := by
  cases i with
  | deriveSchedule key => simp [commandOutcome, needsSchedule, withBlock_ne_error]
  | encryptBlock block => simp [commandOutcome, needsSchedule, withHeld_eq_noSchedule_iff]
  | decryptBlock block => simp [commandOutcome, needsSchedule, withHeld_eq_noSchedule_iff]
  | pad data => simp [commandOutcome, needsSchedule]
  | unpad data =>
    rw [commandOutcome]
    cases unpad c.strictUnpad data <;> simp [needsSchedule]
  | cbcEncrypt iv data =>
    simp [commandOutcome, needsSchedule, withHeld_eq_noSchedule_iff, withBlock_ne_error]
  | cbcDecrypt iv data =>
    simp [commandOutcome, needsSchedule, withHeld_eq_noSchedule_iff, withBlock_ne_error,
      cbcDecrypt_ne_noSchedule]

/-- Settles O21: the response `05 00000000` is that of NoSchedule alone, and the dispatch function says when
it is raised. -/
theorem noScheduleExactlyWhenNoneIsHeld : Obligations.NoScheduleExactlyWhenNoneIsHeld := by
  refine fun i s => ⟨fun hneeds hks => ⟨?raised, rfl⟩, fun hnot t ht hrsp => ?never⟩
  case raised =>
    exact (exec_answers_error_iff (e := .noSchedule)).mpr
      (commandOutcome_eq_noSchedule_iff.mpr ⟨hneeds, hks⟩)
  case never =>
    rw [exec_eq] at ht
    cases ht
    rw [answeredWith_rsp] at hrsp
    obtain ⟨hneeds, hks⟩ :=
      commandOutcome_eq_noSchedule_iff.mp (outcomeFrame_eq_error_iff (e := .noSchedule).mp hrsp)
    obtain hfree | hheld := hnot
    · simp [hfree] at hneeds
    · simp [persistent, hheld] at hks

/-! ### What an error leaves -/

theorem persistent_answered (status : Byte) (data : List Byte) (s : State) :
    persistent (answered s status data) = persistent s := rfl

/-- A response whose status is not OK is that of an error, and the state is then only answered
(60_exceptions.md R196). -/
theorem exists_answered_error_of_exec {i : Instr} {s t : State} (h : exec i s = .next t)
    (hstatus : t.rsp.head? ≠ some 0x00#8) : ∃ e, t = answered s (errorStatus e) [] := by
  cases answers_of_exec s h with
  | schedule k => exact absurd rfl hstatus
  | result data _ => exact absurd rfl hstatus
  | error e => exact ⟨e, rfl⟩

/-- The response of a command and the persistent state after it depend on the parameters and the persistent
state alone (30_encoding.md R76). -/
theorem exec_congr_persistent {s t : State} (hcfg : t.cfg = s.cfg) (hpers : persistent t = persistent s)
    (j : Instr) :
    ∃ u v, exec j t = .next u ∧ exec j s = .next v ∧ u.rsp = v.rsp ∧ persistent u = persistent v := by
  refine ⟨_, _, exec_eq t j, exec_eq s j, ?response, ?persistent⟩
  case response => rw [answeredWith_rsp, answeredWith_rsp, hcfg, hpers]
  case persistent => simp [hpers]

/-- Settles O31: an error only answers, and an answer touches nothing that a command reads. -/
theorem failedCommandLeavesNoTrace : Obligations.FailedCommandLeavesNoTrace := by
  intro i j s t h hstatus
  obtain ⟨e, rfl⟩ := exists_answered_error_of_exec h hstatus
  have hpers := persistent_answered (errorStatus e) [] s
  exact ⟨hpers, exec_congr_persistent (answered_cfg _ _ s) hpers j⟩

end Sys2Proof.Machine
end
